-- ==== Sys2Proof/Word.lean ====
section
/-! DEFINITION. The machine's word types (R6, R8, R9): 32-bit words, 20-bit addresses, bytes of the loader and of the
memory cells, and the 4-bit register numbers of an instruction's fields (R101). -/

namespace Sys2Proof

/-- A 32-bit word: a register, a memory word, the data bus (R6). -/
abbrev Word := BitVec 32

/-- A byte: what the S-record loader reads and what one memory cell holds (R62, log entry 1). -/
abbrev Byte := BitVec 8

/-- A 20-bit word address, what `A20` of R9 yields (R61). -/
abbrev Addr := BitVec 20

/-- The number of a general register, one 4-bit field of an instruction (R20, R101). -/
abbrev Reg := BitVec 4

/-- The number of a special register slot, the `Rd` field of `movgs` and the `Rs` field of `movsg` (R24, R101). -/
abbrev SReg := BitVec 4

end Sys2Proof
end

