-- ==== Sys2Proof/Syntax.lean ====
section
/-! DEFINITION. The instructions: one constructor per row of spec/opcode_table.json, 71 in all (R108, R109). An operand has
exactly the width of its field (R101), so every term of `Instr` is an instruction; the bits R113 calls ignored are not part
of an instruction (log entry 23). -/

namespace Sys2Proof

/-- An instruction. `rd`, `rs`, `rt` are general register numbers, `sd`, `ss` special register numbers; for `sw`, `rd` is
the register stored (R101). `brk` is the instruction `break`, whose name Lean reserves. -/
inductive Instr where
  /-- `add` (R136). -/
  | add (rd rs rt : Reg)
  /-- `addu` (R138). -/
  | addu (rd rs rt : Reg)
  /-- `sub` (R140). -/
  | sub (rd rs rt : Reg)
  /-- `subu` (R142). -/
  | subu (rd rs rt : Reg)
  /-- `mult` (R144). -/
  | mult (rd rs rt : Reg)
  /-- `multu` (R146). -/
  | multu (rd rs rt : Reg)
  /-- `div` (R148). -/
  | div (rd rs rt : Reg)
  /-- `divu` (R150). -/
  | divu (rd rs rt : Reg)
  /-- `rem` (R152). -/
  | rem (rd rs rt : Reg)
  /-- `remu` (R154). -/
  | remu (rd rs rt : Reg)
  /-- `sll` (R156). -/
  | sll (rd rs rt : Reg)
  /-- `and` (R158). -/
  | and (rd rs rt : Reg)
  /-- `srl` (R160). -/
  | srl (rd rs rt : Reg)
  /-- `or` (R162). -/
  | or (rd rs rt : Reg)
  /-- `sra` (R164). -/
  | sra (rd rs rt : Reg)
  /-- `xor` (R166). -/
  | xor (rd rs rt : Reg)
  /-- `addi` (R137). -/
  | addi (rd rs : Reg) (imm : BitVec 16)
  /-- `addui` (R139). -/
  | addui (rd rs : Reg) (imm : BitVec 16)
  /-- `subi` (R141). -/
  | subi (rd rs : Reg) (imm : BitVec 16)
  /-- `subui` (R143). -/
  | subui (rd rs : Reg) (imm : BitVec 16)
  /-- `multi` (R145). -/
  | multi (rd rs : Reg) (imm : BitVec 16)
  /-- `multui` (R147). -/
  | multui (rd rs : Reg) (imm : BitVec 16)
  /-- `divi` (R149). -/
  | divi (rd rs : Reg) (imm : BitVec 16)
  /-- `divui` (R151). -/
  | divui (rd rs : Reg) (imm : BitVec 16)
  /-- `remi` (R153). -/
  | remi (rd rs : Reg) (imm : BitVec 16)
  /-- `remui` (R155). -/
  | remui (rd rs : Reg) (imm : BitVec 16)
  /-- `slli` (R157). -/
  | slli (rd rs : Reg) (imm : BitVec 16)
  /-- `andi` (R159). -/
  | andi (rd rs : Reg) (imm : BitVec 16)
  /-- `srli` (R161). -/
  | srli (rd rs : Reg) (imm : BitVec 16)
  /-- `ori` (R163). -/
  | ori (rd rs : Reg) (imm : BitVec 16)
  /-- `srai` (R165). -/
  | srai (rd rs : Reg) (imm : BitVec 16)
  /-- `xori` (R167). -/
  | xori (rd rs : Reg) (imm : BitVec 16)
  /-- `slt` (R172). -/
  | slt (rd rs rt : Reg)
  /-- `sltu` (R174). -/
  | sltu (rd rs rt : Reg)
  /-- `sgt` (R176). -/
  | sgt (rd rs rt : Reg)
  /-- `sgtu` (R178). -/
  | sgtu (rd rs rt : Reg)
  /-- `sle` (R180). -/
  | sle (rd rs rt : Reg)
  /-- `sleu` (R182). -/
  | sleu (rd rs rt : Reg)
  /-- `sge` (R184). -/
  | sge (rd rs rt : Reg)
  /-- `sgeu` (R186). -/
  | sgeu (rd rs rt : Reg)
  /-- `seq` (R188). -/
  | seq (rd rs rt : Reg)
  /-- `sequ` (R190). -/
  | sequ (rd rs rt : Reg)
  /-- `sne` (R192). -/
  | sne (rd rs rt : Reg)
  /-- `sneu` (R194). -/
  | sneu (rd rs rt : Reg)
  /-- `break` (R220). -/
  | brk
  /-- `syscall` (R221). -/
  | syscall
  /-- `rfe` (R222). -/
  | rfe
  /-- `slti` (R173). -/
  | slti (rd rs : Reg) (imm : BitVec 16)
  /-- `sltui` (R175). -/
  | sltui (rd rs : Reg) (imm : BitVec 16)
  /-- `sgti` (R177). -/
  | sgti (rd rs : Reg) (imm : BitVec 16)
  /-- `sgtui` (R179). -/
  | sgtui (rd rs : Reg) (imm : BitVec 16)
  /-- `slei` (R181). -/
  | slei (rd rs : Reg) (imm : BitVec 16)
  /-- `sleui` (R183). -/
  | sleui (rd rs : Reg) (imm : BitVec 16)
  /-- `sgei` (R185). -/
  | sgei (rd rs : Reg) (imm : BitVec 16)
  /-- `sgeui` (R187). -/
  | sgeui (rd rs : Reg) (imm : BitVec 16)
  /-- `seqi` (R189). -/
  | seqi (rd rs : Reg) (imm : BitVec 16)
  /-- `sequi` (R191). -/
  | sequi (rd rs : Reg) (imm : BitVec 16)
  /-- `snei` (R193). -/
  | snei (rd rs : Reg) (imm : BitVec 16)
  /-- `sneui` (R195). -/
  | sneui (rd rs : Reg) (imm : BitVec 16)
  /-- `movgs` (R223). -/
  | movgs (sd : SReg) (rs : Reg)
  /-- `movsg` (R224). -/
  | movsg (rd : Reg) (ss : SReg)
  /-- `lhi` (R196). -/
  | lhi (rd : Reg) (imm : BitVec 16)
  /-- `j` (R201). -/
  | j (target : Addr)
  /-- `jr` (R202). -/
  | jr (rs : Reg)
  /-- `jal` (R203). -/
  | jal (target : Addr)
  /-- `jalr` (R204). -/
  | jalr (rs : Reg)
  /-- `lw` (R211). -/
  | lw (rd rs : Reg) (offset : BitVec 20)
  /-- `sw` (R212). -/
  | sw (rd rs : Reg) (offset : BitVec 20)
  /-- `beqz` (R205). -/
  | beqz (rs : Reg) (offset : BitVec 20)
  /-- `bnez` (R206). -/
  | bnez (rs : Reg) (offset : BitVec 20)
  /-- `la` (R213). -/
  | la (rd : Reg) (address : Addr)
deriving DecidableEq, Repr

end Sys2Proof
end

