-- ==== Sys2Proof/WellFormed.lean ====
section
/-! DEFINITION. What makes an instruction word well formed. A term of `Instr` needs no check: its operands have exactly the
widths of their fields, and every value of a field is legal (R101, R110, R113, R114). What can be ill formed is a WORD: its
opcode (R111) or its function (R112) may select no instruction; and a word an assembler did not write may have ignored bits
that are not 0 (R113), which is legal and changes nothing. -/

namespace Sys2Proof

/-- The opcode selects an instruction: it is not 0xD, 0xE or 0xF (R111). -/
def opcodeDefined (w : Word) : Bool :=
  decide ((w.extractLsb' 28 4).toNat ≤ 0xC)

/-- The function selects an instruction: it is not 0x1F, that is `fn4` is not 0xF under opcodes 2 and 3 (R112). -/
def functionDefined (w : Word) : Bool :=
  !((w.extractLsb' 28 4 == 0x2#4 || w.extractLsb' 28 4 == 0x3#4) && w.extractLsb' 16 4 == 0xF#4)

/-- The word selects exactly one instruction (R110). -/
def wellFormedWord (w : Word) : Bool :=
  opcodeDefined w && functionDefined w

/-- The bits of a word that are no field of the instruction it selects, as a mask (the table of R113). -/
def ignoredBits (w : Word) : Word :=
  let fn := w.extractLsb' 16 4
  match (w.extractLsb' 28 4).toNat with
  | 0x0 => 0x0000FFF0#32
  | 0x2 => if fn == 0xC#4 || fn == 0xD#4 || fn == 0xE#4 then 0x0FF0FFFF#32 else 0x0000FFF0#32
  | 0x3 =>
    if fn == 0xC#4 || fn == 0xD#4 then 0x0000FFFF#32
    else if fn == 0xE#4 then 0x00F00000#32
    else 0x00000000#32
  | 0x4 => 0x0FF00000#32
  | 0x5 => 0x0F0FFFFF#32
  | 0x6 => 0x0FF00000#32
  | 0x7 => 0x0F0FFFFF#32
  | 0xA => 0x0F000000#32
  | 0xB => 0x0F000000#32
  | 0xC => 0x00F00000#32
  | _ => 0x00000000#32

/-- Every ignored bit is 0, as assemblers write it (R113). -/
def ignoredBitsClear (w : Word) : Bool :=
  w &&& ignoredBits w == 0#32

end Sys2Proof
end

