-- ==== Sys2Proof/Decode.lean ====
section
/-! DEFINITION. The decoder, total on every word (R110), and the encoder, both written from the field table R101 and the
maps R108 and R109. -/

namespace Sys2Proof

/-- Why a word selects no instruction: by its opcode (R111) or by its function code (R112). Safe: the step raises GPF. -/
inductive Undefined where
  | opcode (op : BitVec 4)
  | function (op : BitVec 4)
deriving DecidableEq, Repr

/-- `op`, bits 31:28 (R101). -/
def opField (w : Word) : BitVec 4 := w.extractLsb' 28 4

/-- `Rd`, bits 27:24 (R101). -/
def rdField (w : Word) : BitVec 4 := w.extractLsb' 24 4

/-- `Rs`, bits 23:20 (R101). -/
def rsField (w : Word) : BitVec 4 := w.extractLsb' 20 4

/-- `fn4`, bits 19:16 (R101). -/
def fn4Field (w : Word) : BitVec 4 := w.extractLsb' 16 4

/-- `Rt`, bits 3:0 (R101). -/
def rtField (w : Word) : BitVec 4 := w.extractLsb' 0 4

/-- `imm16`, bits 15:0 (R101). -/
def imm16Field (w : Word) : BitVec 16 := w.extractLsb' 0 16

/-- `imm20`, bits 19:0 (R101). -/
def imm20Field (w : Word) : BitVec 20 := w.extractLsb' 0 20

/-- `func`, bit 29 above bits 19:16 (R105). -/
def funcField (w : Word) : BitVec 5 := w.extractLsb' 29 1 ++ fn4Field w

/-- The register form of R109: the instruction a word of opcode 0x0 or 0x2 selects. -/
def selectRegisterForm (w : Word) : Except Undefined Instr :=
  match funcField w with
  | 0x00#5 => .ok (.add (rdField w) (rsField w) (rtField w))
  | 0x01#5 => .ok (.addu (rdField w) (rsField w) (rtField w))
  | 0x02#5 => .ok (.sub (rdField w) (rsField w) (rtField w))
  | 0x03#5 => .ok (.subu (rdField w) (rsField w) (rtField w))
  | 0x04#5 => .ok (.mult (rdField w) (rsField w) (rtField w))
  | 0x05#5 => .ok (.multu (rdField w) (rsField w) (rtField w))
  | 0x06#5 => .ok (.div (rdField w) (rsField w) (rtField w))
  | 0x07#5 => .ok (.divu (rdField w) (rsField w) (rtField w))
  | 0x08#5 => .ok (.rem (rdField w) (rsField w) (rtField w))
  | 0x09#5 => .ok (.remu (rdField w) (rsField w) (rtField w))
  | 0x0A#5 => .ok (.sll (rdField w) (rsField w) (rtField w))
  | 0x0B#5 => .ok (.and (rdField w) (rsField w) (rtField w))
  | 0x0C#5 => .ok (.srl (rdField w) (rsField w) (rtField w))
  | 0x0D#5 => .ok (.or (rdField w) (rsField w) (rtField w))
  | 0x0E#5 => .ok (.sra (rdField w) (rsField w) (rtField w))
  | 0x0F#5 => .ok (.xor (rdField w) (rsField w) (rtField w))
  | 0x10#5 => .ok (.slt (rdField w) (rsField w) (rtField w))
  | 0x11#5 => .ok (.sltu (rdField w) (rsField w) (rtField w))
  | 0x12#5 => .ok (.sgt (rdField w) (rsField w) (rtField w))
  | 0x13#5 => .ok (.sgtu (rdField w) (rsField w) (rtField w))
  | 0x14#5 => .ok (.sle (rdField w) (rsField w) (rtField w))
  | 0x15#5 => .ok (.sleu (rdField w) (rsField w) (rtField w))
  | 0x16#5 => .ok (.sge (rdField w) (rsField w) (rtField w))
  | 0x17#5 => .ok (.sgeu (rdField w) (rsField w) (rtField w))
  | 0x18#5 => .ok (.seq (rdField w) (rsField w) (rtField w))
  | 0x19#5 => .ok (.sequ (rdField w) (rsField w) (rtField w))
  | 0x1A#5 => .ok (.sne (rdField w) (rsField w) (rtField w))
  | 0x1B#5 => .ok (.sneu (rdField w) (rsField w) (rtField w))
  | 0x1C#5 => .ok .brk
  | 0x1D#5 => .ok .syscall
  | 0x1E#5 => .ok .rfe
  | _ => .error (.function (opField w))

/-- The immediate form of R109: the instruction a word of opcode 0x1 or 0x3 selects. -/
def selectImmediateForm (w : Word) : Except Undefined Instr :=
  match funcField w with
  | 0x00#5 => .ok (.addi (rdField w) (rsField w) (imm16Field w))
  | 0x01#5 => .ok (.addui (rdField w) (rsField w) (imm16Field w))
  | 0x02#5 => .ok (.subi (rdField w) (rsField w) (imm16Field w))
  | 0x03#5 => .ok (.subui (rdField w) (rsField w) (imm16Field w))
  | 0x04#5 => .ok (.multi (rdField w) (rsField w) (imm16Field w))
  | 0x05#5 => .ok (.multui (rdField w) (rsField w) (imm16Field w))
  | 0x06#5 => .ok (.divi (rdField w) (rsField w) (imm16Field w))
  | 0x07#5 => .ok (.divui (rdField w) (rsField w) (imm16Field w))
  | 0x08#5 => .ok (.remi (rdField w) (rsField w) (imm16Field w))
  | 0x09#5 => .ok (.remui (rdField w) (rsField w) (imm16Field w))
  | 0x0A#5 => .ok (.slli (rdField w) (rsField w) (imm16Field w))
  | 0x0B#5 => .ok (.andi (rdField w) (rsField w) (imm16Field w))
  | 0x0C#5 => .ok (.srli (rdField w) (rsField w) (imm16Field w))
  | 0x0D#5 => .ok (.ori (rdField w) (rsField w) (imm16Field w))
  | 0x0E#5 => .ok (.srai (rdField w) (rsField w) (imm16Field w))
  | 0x0F#5 => .ok (.xori (rdField w) (rsField w) (imm16Field w))
  | 0x10#5 => .ok (.slti (rdField w) (rsField w) (imm16Field w))
  | 0x11#5 => .ok (.sltui (rdField w) (rsField w) (imm16Field w))
  | 0x12#5 => .ok (.sgti (rdField w) (rsField w) (imm16Field w))
  | 0x13#5 => .ok (.sgtui (rdField w) (rsField w) (imm16Field w))
  | 0x14#5 => .ok (.slei (rdField w) (rsField w) (imm16Field w))
  | 0x15#5 => .ok (.sleui (rdField w) (rsField w) (imm16Field w))
  | 0x16#5 => .ok (.sgei (rdField w) (rsField w) (imm16Field w))
  | 0x17#5 => .ok (.sgeui (rdField w) (rsField w) (imm16Field w))
  | 0x18#5 => .ok (.seqi (rdField w) (rsField w) (imm16Field w))
  | 0x19#5 => .ok (.sequi (rdField w) (rsField w) (imm16Field w))
  | 0x1A#5 => .ok (.snei (rdField w) (rsField w) (imm16Field w))
  | 0x1B#5 => .ok (.sneui (rdField w) (rsField w) (imm16Field w))
  | 0x1C#5 => .ok (.movgs (rdField w) (rsField w))
  | 0x1D#5 => .ok (.movsg (rdField w) (rsField w))
  | 0x1E#5 => .ok (.lhi (rdField w) (imm16Field w))
  | _ => .error (.function (opField w))

/-- The instruction a word selects, or why it selects none (R110). Total; ignored bits are not looked at (R113). -/
def decode (w : Word) : Except Undefined Instr :=
  match opField w with
  | 0x0#4 => selectRegisterForm w
  | 0x1#4 => selectImmediateForm w
  | 0x2#4 => selectRegisterForm w
  | 0x3#4 => selectImmediateForm w
  | 0x4#4 => .ok (.j (imm20Field w))
  | 0x5#4 => .ok (.jr (rsField w))
  | 0x6#4 => .ok (.jal (imm20Field w))
  | 0x7#4 => .ok (.jalr (rsField w))
  | 0x8#4 => .ok (.lw (rdField w) (rsField w) (imm20Field w))
  | 0x9#4 => .ok (.sw (rdField w) (rsField w) (imm20Field w))
  | 0xA#4 => .ok (.beqz (rsField w) (imm20Field w))
  | 0xB#4 => .ok (.bnez (rsField w) (imm20Field w))
  | 0xC#4 => .ok (.la (rdField w) (imm20Field w))
  | _ => .error (.opcode (opField w))

/-- The R-type layout (R102), bits 15:4 written 0. -/
def encodeR (op fn rd rs rt : BitVec 4) : Word := op ++ rd ++ rs ++ fn ++ 0#12 ++ rt

/-- The I-type layout (R103). -/
def encodeI (op fn rd rs : BitVec 4) (imm : BitVec 16) : Word := op ++ rd ++ rs ++ fn ++ imm

/-- The J-type layout (R104). -/
def encodeJ (op rd rs : BitVec 4) (imm : BitVec 20) : Word := op ++ rd ++ rs ++ imm

/-- The word an assembler writes for an instruction: every ignored bit 0 (R108, R109, R113, R116). -/
def encode : Instr → Word
  | .add rd rs rt => encodeR 0x0#4 0x0#4 rd rs rt
  | .addu rd rs rt => encodeR 0x0#4 0x1#4 rd rs rt
  | .sub rd rs rt => encodeR 0x0#4 0x2#4 rd rs rt
  | .subu rd rs rt => encodeR 0x0#4 0x3#4 rd rs rt
  | .mult rd rs rt => encodeR 0x0#4 0x4#4 rd rs rt
  | .multu rd rs rt => encodeR 0x0#4 0x5#4 rd rs rt
  | .div rd rs rt => encodeR 0x0#4 0x6#4 rd rs rt
  | .divu rd rs rt => encodeR 0x0#4 0x7#4 rd rs rt
  | .rem rd rs rt => encodeR 0x0#4 0x8#4 rd rs rt
  | .remu rd rs rt => encodeR 0x0#4 0x9#4 rd rs rt
  | .sll rd rs rt => encodeR 0x0#4 0xA#4 rd rs rt
  | .and rd rs rt => encodeR 0x0#4 0xB#4 rd rs rt
  | .srl rd rs rt => encodeR 0x0#4 0xC#4 rd rs rt
  | .or rd rs rt => encodeR 0x0#4 0xD#4 rd rs rt
  | .sra rd rs rt => encodeR 0x0#4 0xE#4 rd rs rt
  | .xor rd rs rt => encodeR 0x0#4 0xF#4 rd rs rt
  | .addi rd rs imm => encodeI 0x1#4 0x0#4 rd rs imm
  | .addui rd rs imm => encodeI 0x1#4 0x1#4 rd rs imm
  | .subi rd rs imm => encodeI 0x1#4 0x2#4 rd rs imm
  | .subui rd rs imm => encodeI 0x1#4 0x3#4 rd rs imm
  | .multi rd rs imm => encodeI 0x1#4 0x4#4 rd rs imm
  | .multui rd rs imm => encodeI 0x1#4 0x5#4 rd rs imm
  | .divi rd rs imm => encodeI 0x1#4 0x6#4 rd rs imm
  | .divui rd rs imm => encodeI 0x1#4 0x7#4 rd rs imm
  | .remi rd rs imm => encodeI 0x1#4 0x8#4 rd rs imm
  | .remui rd rs imm => encodeI 0x1#4 0x9#4 rd rs imm
  | .slli rd rs imm => encodeI 0x1#4 0xA#4 rd rs imm
  | .andi rd rs imm => encodeI 0x1#4 0xB#4 rd rs imm
  | .srli rd rs imm => encodeI 0x1#4 0xC#4 rd rs imm
  | .ori rd rs imm => encodeI 0x1#4 0xD#4 rd rs imm
  | .srai rd rs imm => encodeI 0x1#4 0xE#4 rd rs imm
  | .xori rd rs imm => encodeI 0x1#4 0xF#4 rd rs imm
  | .slt rd rs rt => encodeR 0x2#4 0x0#4 rd rs rt
  | .sltu rd rs rt => encodeR 0x2#4 0x1#4 rd rs rt
  | .sgt rd rs rt => encodeR 0x2#4 0x2#4 rd rs rt
  | .sgtu rd rs rt => encodeR 0x2#4 0x3#4 rd rs rt
  | .sle rd rs rt => encodeR 0x2#4 0x4#4 rd rs rt
  | .sleu rd rs rt => encodeR 0x2#4 0x5#4 rd rs rt
  | .sge rd rs rt => encodeR 0x2#4 0x6#4 rd rs rt
  | .sgeu rd rs rt => encodeR 0x2#4 0x7#4 rd rs rt
  | .seq rd rs rt => encodeR 0x2#4 0x8#4 rd rs rt
  | .sequ rd rs rt => encodeR 0x2#4 0x9#4 rd rs rt
  | .sne rd rs rt => encodeR 0x2#4 0xA#4 rd rs rt
  | .sneu rd rs rt => encodeR 0x2#4 0xB#4 rd rs rt
  | .brk => encodeR 0x2#4 0xC#4 0#4 0#4 0#4
  | .syscall => encodeR 0x2#4 0xD#4 0#4 0#4 0#4
  | .rfe => encodeR 0x2#4 0xE#4 0#4 0#4 0#4
  | .slti rd rs imm => encodeI 0x3#4 0x0#4 rd rs imm
  | .sltui rd rs imm => encodeI 0x3#4 0x1#4 rd rs imm
  | .sgti rd rs imm => encodeI 0x3#4 0x2#4 rd rs imm
  | .sgtui rd rs imm => encodeI 0x3#4 0x3#4 rd rs imm
  | .slei rd rs imm => encodeI 0x3#4 0x4#4 rd rs imm
  | .sleui rd rs imm => encodeI 0x3#4 0x5#4 rd rs imm
  | .sgei rd rs imm => encodeI 0x3#4 0x6#4 rd rs imm
  | .sgeui rd rs imm => encodeI 0x3#4 0x7#4 rd rs imm
  | .seqi rd rs imm => encodeI 0x3#4 0x8#4 rd rs imm
  | .sequi rd rs imm => encodeI 0x3#4 0x9#4 rd rs imm
  | .snei rd rs imm => encodeI 0x3#4 0xA#4 rd rs imm
  | .sneui rd rs imm => encodeI 0x3#4 0xB#4 rd rs imm
  | .movgs sd rs => encodeI 0x3#4 0xC#4 sd rs 0#16
  | .movsg rd ss => encodeI 0x3#4 0xD#4 rd ss 0#16
  | .lhi rd imm => encodeI 0x3#4 0xE#4 rd 0#4 imm
  | .j target => encodeJ 0x4#4 0#4 0#4 target
  | .jr rs => encodeJ 0x5#4 0#4 rs 0#20
  | .jal target => encodeJ 0x6#4 0#4 0#4 target
  | .jalr rs => encodeJ 0x7#4 0#4 rs 0#20
  | .lw rd rs offset => encodeJ 0x8#4 rd rs offset
  | .sw rd rs offset => encodeJ 0x9#4 rd rs offset
  | .beqz rs offset => encodeJ 0xA#4 0#4 rs offset
  | .bnez rs offset => encodeJ 0xB#4 0#4 rs offset
  | .la rd address => encodeJ 0xC#4 rd 0#4 address

/-- The instruction the decoder reads from an instruction whose low `nbits` bits are `w`, numbered as the opcode table
numbers them; the word is stored and fetched whole (R62), and bits above `nbits` are 0. -/
def decodeTableWord (nbits w : Nat) : Option Instr :=
  match decode (BitVec.ofNat 32 (w % 2 ^ nbits)) with
  | .ok i => some i
  | .error _ => none

end Sys2Proof
end

