-- ==== Sys2Proof/Config.lean ====
section
/-! DEFINITION. The open parameters of the machine (R7) and the words the spec leaves unspecified (R52, R310), as plain
data. A configuration is a field of the state that no step writes; the statements hold for every configuration, and
`State.reset` names one (log entry 5). -/

namespace Sys2Proof

/-- The two sizes of the parallel controller (R7 PARALLEL_VARIANT, R277, R284). -/
inductive ParallelVariant where
  | sixWords
  | elevenWords
deriving DecidableEq, Repr

/-- How many registers the parallel controller has (R65). -/
def ParallelVariant.length : ParallelVariant → Nat
  | .sixWords => 6
  | .elevenWords => 11

/-- The timing classes of R325. -/
inductive TimingClass where
  | alu
  | muldiv
  | jump
  | branch
  | load
  | store
  | la
  | system
deriving DecidableEq, Repr

/-- The parameter TICKS of R7: how many ticks an instruction of each class occupies (R325). -/
structure TickCosts where
  alu : Nat
  muldiv : Nat
  jump : Nat
  branch : Nat
  load : Nat
  store : Nat
  la : Nat
  system : Nat
deriving DecidableEq, Repr

/-- `TICKS(c)` of R325. -/
def TickCosts.of (t : TickCosts) : TimingClass → Nat
  | .alu => t.alu
  | .muldiv => t.muldiv
  | .jump => t.jump
  | .branch => t.branch
  | .load => t.load
  | .store => t.store
  | .la => t.la
  | .system => t.system

/-- The open parameters of R7, and the words R52 and R310 leave unspecified. -/
structure Config where
  /-- TICKS (R325). -/
  ticks : TickCosts
  /-- CLOCK_HZ, the nominal clock rate from which serial delays are derived (R273). -/
  clockHz : Nat
  /-- TIMER_DIV, board ticks per timer decrement (R257). -/
  timerDiv : Nat
  /-- RESET_FILL, what a reset puts into the registers without a reset value of their own (R52). -/
  resetFill : Word
  /-- The data bus after reset, unspecified in R52. -/
  resetDbus : Word
  /-- The instruction latch after reset, unspecified in R52. -/
  resetIr : Word
  /-- A serial port's `rx_pending` after reset, unspecified in R52. -/
  resetRxPending : Byte
  /-- The address bus after a load, unspecified in R310. -/
  loadAbus : Addr
  /-- The data bus after a load, unspecified in R310. -/
  loadDbus : Word
  /-- PARALLEL_VARIANT (R284). -/
  parallelVariant : ParallelVariant
  /-- RX_GUARD_TICKS (R275). -/
  rxGuardTicks : Nat
  /-- RFE_PRIVILEGED: whether `rfe` in user mode raises GPF (R222). -/
  rfePrivileged : Bool
  /-- SSD_TABLE, the seven-segment decode table (R280). -/
  ssdTable : Vector Byte 16
deriving DecidableEq, Repr

/-- What R7 and R325 ask of the parameters: every tick count, the clock rate, the timer divisor and the guard window are
positive integers (log entry 22). -/
def Config.wf (c : Config) : Bool :=
  decide (0 < c.ticks.alu) && decide (0 < c.ticks.muldiv) && decide (0 < c.ticks.jump) && decide (0 < c.ticks.branch) &&
  decide (0 < c.ticks.load) && decide (0 < c.ticks.store) && decide (0 < c.ticks.la) && decide (0 < c.ticks.system) &&
  decide (0 < c.clockHz) && decide (0 < c.timerDiv) && decide (0 < c.rxGuardTicks)

end Sys2Proof
end

