-- ==== Sys2Proof/Machine/Params.lean ====
section
/-! DEFINITION. The values of the open parameters that `State.reset` names (R7 and log entry 5). The statements do not rest
on them: they hold for every configuration. -/

namespace Sys2Proof.Machine

/-- What a byte of memory that nothing has written reads as: RAM holds all ones after reset (R52); the same byte is taken
for the ROM image, which R7 leaves arbitrary (log entry 2, DESIGN CHOICE). -/
def unwrittenByte : Byte := 0xFF#8

/-- The tick costs of the vectors of 95_test_vectors.md: 1 for every class, 12 for `muldiv` (log entry 5, DESIGN CHOICE). -/
def defaultTicks : TickCosts :=
  { alu := 1, muldiv := 12, jump := 1, branch := 1, load := 1, store := 1, la := 1, system := 1 }

/-- The nominal clock rate of R7. -/
def defaultClockHz : Nat := 6250000

/-- The seven-segment table of R280, digits 0 to F. -/
def defaultSsdTable : Vector Byte 16 :=
  #v[0x3F#8, 0x06#8, 0x5B#8, 0x4F#8, 0x66#8, 0x6D#8, 0x7D#8, 0x07#8,
     0x7F#8, 0x6F#8, 0x77#8, 0x7C#8, 0x39#8, 0x5E#8, 0x79#8, 0x71#8]

/-- RESET_FILL in `State.reset`: not zero, because R52 forbids treating it as zero (log entry 3, DESIGN CHOICE). -/
def defaultResetFill : Word := 0x00000001#32

/-- The configuration of `State.reset`: the defaults of R7, and named words where the spec leaves a value unspecified
(log entries 3, 4, 5, 15). -/
def defaultConfig : Config :=
  { ticks := defaultTicks
    clockHz := defaultClockHz
    timerDiv := defaultClockHz / 2400
    resetFill := defaultResetFill
    resetDbus := 0xFFFFFFFF#32
    resetIr := 0xFFFFFFFF#32
    resetRxPending := 0xFF#8
    loadAbus := 0x00000#20
    loadDbus := 0xFFFFFFFF#32
    parallelVariant := .elevenWords
    rxGuardTicks := 100000
    rfePrivileged := false
    ssdTable := defaultSsdTable }

/-- The first cell of ROM: cells below it are RAM's, the others ROM's (R65, log entry 1). -/
def romFirstCell : Nat := 4 * 0x80000

/-- `pc` after reset, the first word of ROM (R52). -/
def resetPc : Addr := 0x80000#20

/-- `cctrl` after reset: kernel mode, interrupts off, every mask 0 (R52). -/
def resetCctrl : Word := 0x00000008#32

/-- A serial port's `control` after reset: 38400 baud, 8 data bits, no parity, 1 stop bit (R52). -/
def resetSerialControl : Word := 0x000000C7#32

/-- A serial port's `status` after reset: transmit-done set, data-ready clear (R52). -/
def resetSerialStatus : Word := 0x00000002#32

/-- The parallel controller's `control` after reset: hex decode on, change interrupt off (R52). -/
def resetParallelControl : Word := 0x00000001#32

/-- The special register slot of `cctrl` (R25). -/
def cctrlSlot : SReg := 4#4

/-- The special register slot of `estat` (R25). -/
def estatSlot : SReg := 5#4

/-- The special register slot of `icount` (R25). -/
def icountSlot : SReg := 6#4

/-- The special register slot of `ccount` (R25). -/
def ccountSlot : SReg := 7#4

/-- The special register slot of `evec` (R25). -/
def evecSlot : SReg := 8#4

/-- The special register slot of `ear` (R25). -/
def earSlot : SReg := 9#4

/-- The special register slot of `ers` (R25). -/
def ersSlot : SReg := 11#4

/-- The special register slot of `ptable` (R25). -/
def ptableSlot : SReg := 12#4

/-- The special register slot of `rbase` (R25). -/
def rbaseSlot : SReg := 13#4

/-- The link register, `x[15]` (R22, R203). -/
def linkReg : Reg := 15#4

/-- The general register exception entry saves and `rfe` restores, `x[13]` (R22, R241). -/
def savedReg : Reg := 13#4

end Sys2Proof.Machine
end

