-- ==== Sys2Proof/Machine/State.lean ====
section
/-! DEFINITION. The state of the machine as plain data, everything R20 to R51 name, and the state after reset (R52, R300,
R302). -/

namespace Sys2Proof.Machine

/-- RAM and ROM as one list of cells: word address `a` is the four cells `4 * a` to `4 * a + 3`, the first the highest byte
(log entry 1). In canonical form the addresses rise strictly and no cell holds `unwrittenByte`. -/
abbrev Memory := List Host.Cell

/-- The timer (R48, R255, R257). -/
structure Timer where
  /-- Offset 0: bit 0 enable, bit 1 auto-restart (R256). -/
  control : Word
  /-- Offset 1: the reload value. -/
  load : Word
  /-- Offset 2: the current count. -/
  count : Word
  /-- Offset 3, the ack word: bit 0 pending, bit 1 overrun. -/
  iack : Word
  /-- Board ticks since the last decrement step (R257). -/
  prescale : Nat
deriving DecidableEq, Repr

/-- One serial port (R49, R265). -/
structure Serial where
  /-- Offset 0: the word last written for transmission. -/
  tx : Word
  /-- Offset 1: the byte last received, zero-extended. -/
  rx : Word
  /-- Offset 2: line format and interrupt enables (R266). -/
  control : Word
  /-- Offset 3: bit 0 data-ready, bit 1 transmit-done (R267). -/
  status : Word
  /-- Offset 4, the ack word: bit 0 receive, bit 1 transmit (R274). -/
  iack : Word
  /-- Ticks left of the transmission in flight; 0 when there is none. -/
  txCountdown : Nat
  /-- Ticks left of the reception in flight; 0 when there is none. -/
  rxCountdown : Nat
  /-- The byte of the reception in flight. -/
  rxPending : Byte
  /-- Ticks left of the receive-busy guard window (R275). -/
  rxGuard : Nat
deriving DecidableEq, Repr

/-- The parallel controller (R50, R277); the last five words are reachable in the 11-word variant only (R284). -/
structure Parallel where
  /-- Offset 0, written by the host only (R279). -/
  switches : Word
  /-- Offset 1, written by the host only (R279). -/
  buttons : Word
  /-- Offset 2. -/
  ssdLeft : Word
  /-- Offset 3. -/
  ssdRight : Word
  /-- Offset 4: bit 0 hex decode, bit 1 change interrupt (R278). -/
  control : Word
  /-- Offset 5, the ack word (R283). -/
  iack : Word
  /-- Offset 6. -/
  ssdUpperLeft : Word
  /-- Offset 7. -/
  ssdUpperRight : Word
  /-- Offset 8. -/
  ssdLowerLeft : Word
  /-- Offset 9. -/
  ssdLowerRight : Word
  /-- Offset 10 (R282). -/
  leds : Word
  /-- The host-visible flag of R281. -/
  displayChanged : Bool
deriving DecidableEq, Repr

/-- The two serial ports (R65). -/
inductive Port where
  | one
  | two
deriving DecidableEq, Repr

/-- A `TransmittedByte` event (R269, R330). -/
structure TxEvent where
  port : Port
  byte : Byte
deriving DecidableEq, Repr

/-- The whole machine. `cfg`, `completed` and `sent` are the model's own: the parameters of R7, which nothing writes (log
entry 5), and the outputs of the most recent board tick (R315, R269; log entry 14). The IRQ bus is computed from the ack
words, as R45 allows (log entry 12). -/
structure State where
  /-- The parameters of R7. -/
  cfg : Config
  /-- The general registers (R20); slot 0 holds 0 and is never written (R21). -/
  gpr : Vector Word 16
  /-- The special registers (R24), by the slots of R25. -/
  spr : Vector Word 16
  /-- The program counter (R37). -/
  pc : Addr
  /-- The interrupt-status accumulator (R40). -/
  status : BitVec 16
  /-- The instruction latch (R41). -/
  ir : Word
  /-- Ticks left of the instruction in flight (R42). -/
  countdown : Nat
  /-- The address bus latch (R43). -/
  abus : Word
  /-- The direction flag of the address bus (R43). -/
  isWrite : Bool
  /-- The data bus latch (R44). -/
  dbus : Word
  /-- The board tick counter (R46). -/
  ticks : Nat
  /-- RAM and ROM (R47, R68, R69). -/
  mem : Memory
  /-- The timer (R48). -/
  timer : Timer
  /-- Serial port 1 (R49). -/
  serial1 : Serial
  /-- Serial port 2 (R49). -/
  serial2 : Serial
  /-- The parallel controller (R50). -/
  parallel : Parallel
  /-- The one word of the interrupt button, its ack word (R51, R285). -/
  button : Word
  /-- What the most recent board tick returned to the host: whether the CPU issued an instruction in it (R316). -/
  completed : Bool
  /-- The bytes transmitted in the most recent board tick, oldest first (R269). -/
  sent : List TxEvent
deriving DecidableEq, Repr

/-- The machine never stops with a fault: every encoding executes or raises an exception, every address reaches a device or
the stale bus (R329). Nothing raises a fault, so there is no constructor; that is safe. -/
inductive Fault where
deriving DecidableEq, Repr

/-- Why the model gives an instruction no meaning. -/
inductive Refusal where
  /-- Raised by an arm of `exec` whose instruction has no meaning yet; safe: the model stops where the machine goes on. No
  arm raises it. -/
  | notModelled (mnemonic : String)
deriving DecidableEq, Repr

/-- The general register file after reset: slot 0 zero, every other slot `fill` (R52). -/
def resetGpr (fill : Word) : Vector Word 16 :=
  (Vector.replicate 16 fill).set 0 0#32

/-- The special register file after reset: slot 0 zero, `cctrl` its own value, every other slot `fill` (R52, R300). -/
def resetSpr (fill : Word) : Vector Word 16 :=
  ((Vector.replicate 16 fill).set 0 0#32).set 4 resetCctrl

/-- The timer after reset (R52). -/
def resetTimer : Timer :=
  { control := 0#32, load := 0#32, count := 0#32, iack := 0#32, prescale := 0 }

/-- A serial port after reset (R52). -/
def resetSerial (pending : Byte) : Serial :=
  { tx := 0#32, rx := 0#32, control := resetSerialControl, status := resetSerialStatus, iack := 0#32,
    txCountdown := 0, rxCountdown := 0, rxPending := pending, rxGuard := 0 }

/-- The parallel controller after reset; `display_changed` is not reset (R52). -/
def resetParallel (changed : Bool) : Parallel :=
  { switches := 0#32, buttons := 0#32, ssdLeft := 0#32, ssdRight := 0#32, control := resetParallelControl, iack := 0#32,
    ssdUpperLeft := 0#32, ssdUpperRight := 0#32, ssdLowerLeft := 0#32, ssdLowerRight := 0#32, leds := 0#32,
    displayChanged := changed }

/-- Memory made of an image for RAM and one for ROM: of each only the cells that belong there count. -/
def Memory.ofImages (ramInit romImage : Memory) : Memory :=
  ramInit.filter (fun c => decide (c.1 < romFirstCell)) ++ romImage.filter (fun c => decide (romFirstCell ≤ c.1))

/-- RAM_INIT in `State.reset`: every word 0xFFFFFFFF, the default of R7 (log entry 2). -/
def defaultRamInit : Memory := []

/-- ROM_IMAGE in `State.reset`: every word 0xFFFFFFFF (log entry 2, DESIGN CHOICE). -/
def defaultRomImage : Memory := []

/-- The machine as constructed (R302) with the parameters `cfg`, RAM holding RAM_INIT and ROM holding ROM_IMAGE (R7): the
registers and devices of `Reset(false)`, with `ticks` and `display_changed` 0. -/
def State.construct (cfg : Config) (ramInit romImage : Memory) : State :=
  { cfg := cfg
    gpr := resetGpr cfg.resetFill
    spr := resetSpr cfg.resetFill
    pc := resetPc
    status := 0#16
    ir := cfg.resetIr
    countdown := 0
    abus := 0#32
    isWrite := false
    dbus := cfg.resetDbus
    ticks := 0
    mem := Memory.ofImages ramInit romImage
    timer := resetTimer
    serial1 := resetSerial cfg.resetRxPending
    serial2 := resetSerial cfg.resetRxPending
    parallel := resetParallel false
    button := 0#32
    completed := false
    sent := [] }

/-- The machine right after reset: constructed with the named parameters and with nothing loaded (R52, R302; log entries 2 to
6). -/
def State.reset : State := State.construct defaultConfig defaultRamInit defaultRomImage

end Sys2Proof.Machine
end

