-- ==== Sys2Proof/Machine/Memory.lean ====
section
/-! DEFINITION. Memory as a canonical list of cells: reading and writing one byte, and one word (R60, R62, R68, R69; log
entries 1 and 2). No rule can see the order of the four bytes of a word (R62). -/

namespace Sys2Proof.Machine

/-- The first word address of ROM, its base (R65). -/
def romBase : Nat := 0x80000

/-- RAM's length in words (R65). -/
def ramLength : Nat := 0x20000

/-- ROM's length in words (R65). -/
def romLength : Nat := 0x40000

/-- The cell key of byte `k` of the word at word address `a` (log entry 1). -/
def byteKey (a k : Nat) : Nat := 4 * a + k

/-- The cell belongs to a word of RAM or of ROM (R65). -/
def cellBacked (key : Nat) : Bool :=
  decide (key < byteKey ramLength 0) || (decide (byteKey romBase 0 ≤ key) && decide (key < byteKey (romBase + romLength) 0))

/-- The byte at a cell key; a key not listed reads `unwrittenByte`. -/
def Memory.readByte : Memory → Nat → Byte
  | [], _ => unwrittenByte
  | (k, v) :: rest, key => if k = key then v else Memory.readByte rest key

/-- Memory with one byte written, in canonical form again: the byte an unlisted key reads as is not listed. -/
def Memory.writeByte : Memory → Nat → Byte → Memory
  | [], key, v => if v = unwrittenByte then [] else [(key, v)]
  | (k, w) :: rest, key, v =>
    if key < k then (if v = unwrittenByte then (k, w) :: rest else (key, v) :: (k, w) :: rest)
    else if key = k then (if v = unwrittenByte then rest else (key, v) :: rest)
    else (k, w) :: Memory.writeByte rest key v

/-- Byte `k` of a word, byte 0 the highest: the order in which R62 and R310 make a word of four bytes. -/
def byteOfWord (v : Word) (k : Nat) : Byte := v.extractLsb' (24 - 8 * k) 8

/-- The word made of four bytes, the first the highest (R62, R310). -/
def wordOfBytes (b0 b1 b2 b3 : Byte) : Word := b0 ++ b1 ++ b2 ++ b3

/-- The word at word address `a` of RAM or ROM. -/
def Memory.readWord (m : Memory) (a : Nat) : Word :=
  wordOfBytes (m.readByte (byteKey a 0)) (m.readByte (byteKey a 1)) (m.readByte (byteKey a 2)) (m.readByte (byteKey a 3))

/-- Memory with the word at word address `a` replaced. -/
def Memory.writeWord (m : Memory) (a : Nat) (v : Word) : Memory :=
  (((m.writeByte (byteKey a 0) (byteOfWord v 0)).writeByte (byteKey a 1) (byteOfWord v 1)).writeByte
    (byteKey a 2) (byteOfWord v 2)).writeByte (byteKey a 3) (byteOfWord v 3)

/-- Memory with every RAM word as `Reset(false)` leaves it, all ones (R300, R52): no RAM cell is listed. -/
def Memory.clearRam (m : Memory) : Memory :=
  m.filter (fun c => decide (romFirstCell ≤ c.1))

/-- The canonical form: keys rise strictly, no listed byte equals what an unlisted key reads as, and every listed key belongs
to RAM or ROM. -/
abbrev Memory.wf (m : Memory) : Prop :=
  m.Pairwise (fun x y => x.1 < y.1) ∧ ∀ c ∈ m, c.2 ≠ unwrittenByte ∧ cellBacked c.1 = true

end Sys2Proof.Machine
end

