-- ==== Sys2Proof/Machine/Devices.lean ====
section
/-! DEFINITION. The devices on the bus: their words, what a bus read or a bus write does to them (R72, R73), their clock steps
(R259, R276), the address map (R65), the IRQ bus (R45, R251) and the seven-segment output (R280). -/

namespace Sys2Proof.Machine

/-- The word at an offset of the timer (R255). -/
def Timer.word (t : Timer) : Nat → Word
  | 0 => t.control
  | 1 => t.load
  | 2 => t.count
  | _ => t.iack

/-- A bus write to the timer: a 0-to-1 change of the enable bit copies `load` to `count`; every other write only stores
(R258). -/
def Timer.store (t : Timer) (offset : Nat) (v : Word) : Timer :=
  match offset with
  | 0 =>
    if t.control.getLsbD 0 = false ∧ v.getLsbD 0 = true then { t with control := v, count := t.load }
    else { t with control := v }
  | 1 => { t with load := v }
  | 2 => { t with count := v }
  | _ => { t with iack := v }

/-- The expiry of the timer: reload or disable, note an overrun, assert the interrupt (R259). -/
def Timer.expire (t : Timer) : Timer :=
  let counted :=
    if t.control.getLsbD 1 then { t with count := t.load } else { t with control := t.control &&& ~~~1#32 }
  let overrun := if t.iack.getLsbD 0 then t.iack ||| 2#32 else t.iack
  { counted with iack := overrun ||| 1#32 }

/-- One decrement step of the timer: zero-check first, then decrement (R259). -/
def Timer.decrement (t : Timer) : Timer :=
  if t.control.getLsbD 0 then
    if t.count = 0#32 then t.expire else { t with count := t.count - 1#32 }
  else t

/-- The timer's clock step, once per board tick (R257, R259). -/
def Timer.tick (div : Nat) (t : Timer) : Timer :=
  if div ≤ t.prescale + 1 then Timer.decrement { t with prescale := 0 }
  else { t with prescale := t.prescale + 1 }

/-- The word at an offset of a serial port (R265). -/
def Serial.word (p : Serial) : Nat → Word
  | 0 => p.tx
  | 1 => p.rx
  | 2 => p.control
  | 3 => p.status
  | _ => p.iack

/-- The bits of one symbol: start bit, data bits, parity bit, stop bits (R273). -/
def symbolBits (c : Word) : Nat :=
  1 + (5 + (c.extractLsb' 6 2).toNat) + (if c.extractLsb' 4 2 = 0#2 then 0 else 1) + (1 + (c.extractLsb' 3 1).toNat)

/-- `SymbolTicks(control)`: board ticks of one symbol, rounded down, at least 1 (R273). -/
def symbolTicks (clockHz : Nat) (c : Word) : Nat :=
  max 1 (symbolBits c * clockHz / (300 * 2 ^ (c.extractLsb' 0 3).toNat))

/-- A bus write to a serial port: a write of `tx` clears transmit-done and starts a transmission, every other write only
stores (R268, R267, R271). -/
def Serial.store (clockHz : Nat) (p : Serial) (offset : Nat) (v : Word) : Serial :=
  match offset with
  | 0 => { p with tx := v, status := p.status &&& ~~~2#32, txCountdown := symbolTicks clockHz p.control }
  | 1 => { p with rx := v }
  | 2 => { p with control := v }
  | 3 => { p with status := v }
  | _ => { p with iack := v }

/-- The side effect of a bus read of a serial port: reading `rx` clears data-ready (R271, R72). -/
def Serial.readEffect (p : Serial) (offset : Nat) : Serial :=
  match offset with
  | 1 => { p with status := p.status &&& ~~~1#32 }
  | _ => p

/-- The transmitter's half of the clock step, and the byte transmitted when it completes (R276, R269). -/
def Serial.tickTransmit (p : Serial) : Serial × Option Byte :=
  if 0 < p.txCountdown then
    if p.txCountdown = 1 then
      ({ p with
          txCountdown := 0
          status := p.status ||| 2#32
          iack := if p.control.getLsbD 9 then p.iack ||| 2#32 else p.iack },
        some (p.tx.extractLsb' 0 8))
    else ({ p with txCountdown := p.txCountdown - 1 }, none)
  else (p, none)

/-- The receiver's half of the clock step (R276, R272). -/
def Serial.tickReceive (p : Serial) : Serial :=
  if 0 < p.rxCountdown then
    if p.rxCountdown = 1 then
      { p with
        rxCountdown := 0
        rx := p.rxPending.setWidth 32
        status := p.status ||| 1#32
        iack := if p.control.getLsbD 8 then p.iack ||| 1#32 else p.iack }
    else { p with rxCountdown := p.rxCountdown - 1 }
  else p

/-- The guard window's part of the clock step (R275, R276). -/
def Serial.tickGuard (p : Serial) : Serial :=
  { p with rxGuard := p.rxGuard - 1 }

/-- The port's clock step, once per board tick, with the byte it transmits if any (R276). -/
def Serial.tick (p : Serial) : Serial × Option Byte :=
  (p.tickTransmit.1.tickReceive.tickGuard, p.tickTransmit.2)

/-- The port accepts a byte from the host (R288). -/
def Serial.ready (p : Serial) : Bool :=
  p.rxCountdown == 0 && p.rxGuard == 0 && p.status.getLsbD 0 == false

/-- The start of a reception (R270). -/
def Serial.startReceive (clockHz guard : Nat) (p : Serial) (b : Byte) : Serial :=
  { p with rxPending := b, rxCountdown := symbolTicks clockHz p.control, rxGuard := guard }

/-- The word at an offset of the parallel controller (R277). -/
def Parallel.word (p : Parallel) : Nat → Word
  | 0 => p.switches
  | 1 => p.buttons
  | 2 => p.ssdLeft
  | 3 => p.ssdRight
  | 4 => p.control
  | 5 => p.iack
  | 6 => p.ssdUpperLeft
  | 7 => p.ssdUpperRight
  | 8 => p.ssdLowerLeft
  | 9 => p.ssdLowerRight
  | _ => p.leds

/-- A bus write to the parallel controller: switches and buttons ignore it, a display register also sets `display_changed`
(R277, R279, R281). -/
def Parallel.store (p : Parallel) (offset : Nat) (v : Word) : Parallel :=
  match offset with
  | 0 => p
  | 1 => p
  | 2 => { p with ssdLeft := v, displayChanged := true }
  | 3 => { p with ssdRight := v, displayChanged := true }
  | 4 => { p with control := v }
  | 5 => { p with iack := v }
  | 6 => { p with ssdUpperLeft := v, displayChanged := true }
  | 7 => { p with ssdUpperRight := v, displayChanged := true }
  | 8 => { p with ssdLowerLeft := v, displayChanged := true }
  | 9 => { p with ssdLowerRight := v, displayChanged := true }
  | _ => { p with leds := v }

/-- A host change of the switches or the buttons raises the interrupt while `control` bit 1 is 1 (R279). -/
def Parallel.noteChange (p : Parallel) : Parallel :=
  if p.control.getLsbD 1 then { p with iack := p.iack ||| 1#32 } else p

/-- What the host sees for a display register holding `r` (R280). -/
def segments (table : Vector Byte 16) (control r : Word) : Byte :=
  if control.getLsbD 0 then table[(r.extractLsb' 0 4).toNat]'(by have := (r.extractLsb' 0 4).isLt; omega)
  else r.extractLsb' 0 8

/-- The blocks on the bus (R65). -/
inductive Device where
  | ram
  | rom
  | serial (p : Port)
  | timer
  | parallel
  | button
deriving DecidableEq, Repr

/-- One row of the address map: a device answers `base <= a < base + length` (R65). -/
structure Window where
  device : Device
  base : Nat
  length : Nat
deriving DecidableEq, Repr

/-- The physical address map (R65); the parallel controller's length is a parameter (R284). -/
def addressMap (v : ParallelVariant) : List Window :=
  [{ device := .ram, base := 0x00000, length := ramLength },
   { device := .serial .one, base := 0x70000, length := 5 },
   { device := .serial .two, base := 0x71000, length := 5 },
   { device := .timer, base := 0x72000, length := 4 },
   { device := .parallel, base := 0x73000, length := v.length },
   { device := .button, base := 0x7F000, length := 1 },
   { device := .rom, base := romBase, length := romLength }]

/-- The window contains the address (R65). -/
def Window.holds (w : Window) (a : Nat) : Bool := decide (w.base ≤ a) && decide (a < w.base + w.length)

/-- The device that answers an address, with the offset inside its window; `none` where nothing answers (R65, R67). -/
def answering (v : ParallelVariant) (a : Nat) : Option (Device × Nat) :=
  match (addressMap v).find? (fun w => w.holds a) with
  | some w => some (w.device, a - w.base)
  | none => none

/-- A serial port of the state. -/
def State.serial (s : State) : Port → Serial
  | .one => s.serial1
  | .two => s.serial2

/-- The state with a serial port replaced. -/
def State.setSerial (s : State) (p : Port) (v : Serial) : State :=
  { s with
    serial1 := match p with | .one => v | .two => s.serial1
    serial2 := match p with | .one => s.serial2 | .two => v }

/-- The word a device holds at an offset (R47). -/
def State.deviceWord (s : State) (d : Device) (offset : Nat) : Word :=
  match d with
  | .ram => s.mem.readWord offset
  | .rom => s.mem.readWord (romBase + offset)
  | .serial p => (s.serial p).word offset
  | .timer => s.timer.word offset
  | .parallel => s.parallel.word offset
  | .button => s.button

/-- The side effect of a bus read of a device (R72). -/
def State.deviceReadEffect (s : State) (d : Device) (offset : Nat) : State :=
  match d with
  | .serial p => s.setSerial p ((s.serial p).readEffect offset)
  | _ => s

/-- A bus write strobed into a device; ROM ignores it (R71, R73, R69). The interrupt line is a function of the ack word, so it
is re-evaluated with the store (R251). -/
def State.deviceStore (s : State) (d : Device) (offset : Nat) (v : Word) : State :=
  match d with
  | .ram => { s with mem := s.mem.writeWord offset v }
  | .rom => s
  | .serial p => s.setSerial p (Serial.store s.cfg.clockHz (s.serial p) offset v)
  | .timer => { s with timer := s.timer.store offset v }
  | .parallel => { s with parallel := s.parallel.store offset v }
  | .button => { s with button := v }

/-- A line of the IRQ bus: bit `n` is 1 exactly when the ack word wired to it is not 0 (R45, R251). -/
def irqLine (n : Nat) (iack : Word) : Word := if iack = 0#32 then 0#32 else 1#32 <<< n

/-- The IRQ bus: button 1, timer 2, parallel 3, serial ports 4 and 5; no other bit is driven (R235, R45). -/
def State.irq (s : State) : Word :=
  irqLine 1 s.button ||| irqLine 2 s.timer.iack ||| irqLine 3 s.parallel.iack |||
    irqLine 4 s.serial1.iack ||| irqLine 5 s.serial2.iack

/-- The events of a port's clock step. -/
def txEvents (p : Port) : Option Byte → List TxEvent
  | some b => [{ port := p, byte := b }]
  | none => []

/-- The device clock steps of one board tick: timer, serial port 1, serial port 2 (R315). The bytes transmitted are the
events of the tick (R269). -/
def State.tickDevices (s : State) : State :=
  { s with
    timer := s.timer.tick s.cfg.timerDiv
    serial1 := s.serial1.tick.1
    serial2 := s.serial2.tick.1
    sent := txEvents .one s.serial1.tick.2 ++ txEvents .two s.serial2.tick.2 }

end Sys2Proof.Machine
end

