-- ==== Sys2Proof/Machine/Flags.lean ====
section
/-! DEFINITION. The ALU (R130). The machine has no flags (R39): what an operation reports beside its result is only whether it
faults, by signed overflow (R134) or by a zero divisor (R148 to R154). -/

namespace Sys2Proof.Machine

/-- The ALU's functions: those of R109 that are neither system instructions nor undefined. -/
inductive AluFn where
  | add | addu | sub | subu | mult | multu | div | divu | rem | remu
  | sll | and | srl | or | sra | xor
  | slt | sltu | sgt | sgtu | sle | sleu | sge | sgeu | seq | sequ | sne | sneu
  | lhi
deriving DecidableEq, Repr

/-- The function code of a function (R109). -/
def AluFn.code : AluFn → BitVec 5
  | .add => 0x00#5 | .addu => 0x01#5 | .sub => 0x02#5 | .subu => 0x03#5
  | .mult => 0x04#5 | .multu => 0x05#5 | .div => 0x06#5 | .divu => 0x07#5
  | .rem => 0x08#5 | .remu => 0x09#5 | .sll => 0x0A#5 | .and => 0x0B#5
  | .srl => 0x0C#5 | .or => 0x0D#5 | .sra => 0x0E#5 | .xor => 0x0F#5
  | .slt => 0x10#5 | .sltu => 0x11#5 | .sgt => 0x12#5 | .sgtu => 0x13#5
  | .sle => 0x14#5 | .sleu => 0x15#5 | .sge => 0x16#5 | .sgeu => 0x17#5
  | .seq => 0x18#5 | .sequ => 0x19#5 | .sne => 0x1A#5 | .sneu => 0x1B#5
  | .lhi => 0x1E#5

/-- An exact signed result, or the fault ARITH when it is outside the signed 32-bit range (R134). -/
def signedResult (r : Int) : Option Word :=
  if -2147483648 ≤ r ∧ r ≤ 2147483647 then some (BitVec.ofInt 32 r) else none

/-- Signed division faults: a zero divisor, or -2^31 divided by -1 (R148, R152). -/
def signedDivisionFaults (a b : Word) : Bool :=
  b == 0#32 || (a == 0x80000000#32 && b == 0xFFFFFFFF#32)

/-- The quotient truncated toward zero (R148). -/
def truncatedQuotient (a b : Word) : Int := a.toInt.tdiv b.toInt

/-- The result of a comparison: 1 when it holds, 0 when it does not (R170). -/
def testResult (holds : Bool) : Word := if holds then 1#32 else 0#32

/-- A shift count: bits 4:0 of the second operand (R156). -/
def shiftCount (b : Word) : Nat := (b.extractLsb' 0 5).toNat

/-- `ALU(func, a, b)`: the result, or `none` for the fault ARITH (R130, R134, R136 to R167, R170 to R196). -/
def alu (f : AluFn) (a b : Word) : Option Word :=
  match f with
  | .add => signedResult (a.toInt + b.toInt)
  | .addu => some (a + b)
  | .sub => signedResult (a.toInt - b.toInt)
  | .subu => some (a - b)
  | .mult => signedResult (a.toInt * b.toInt)
  | .multu => some (a * b)
  | .div => if signedDivisionFaults a b then none else some (BitVec.ofInt 32 (truncatedQuotient a b))
  | .divu => if b = 0#32 then none else some (BitVec.ofNat 32 (a.toNat / b.toNat))
  | .rem =>
    if signedDivisionFaults a b then none
    else some (BitVec.ofInt 32 (a.toInt - truncatedQuotient a b * b.toInt))
  | .remu => if b = 0#32 then none else some (BitVec.ofNat 32 (a.toNat % b.toNat))
  | .sll => some (a <<< shiftCount b)
  | .and => some (a &&& b)
  | .srl => some (a >>> shiftCount b)
  | .or => some (a ||| b)
  | .sra => some (a.sshiftRight (shiftCount b))
  | .xor => some (a ^^^ b)
  | .slt => some (testResult (decide (a.toInt < b.toInt)))
  | .sltu => some (testResult (decide (a.toNat < b.toNat)))
  | .sgt => some (testResult (decide (a.toInt > b.toInt)))
  | .sgtu => some (testResult (decide (a.toNat > b.toNat)))
  | .sle => some (testResult (decide (a.toInt ≤ b.toInt)))
  | .sleu => some (testResult (decide (a.toNat ≤ b.toNat)))
  | .sge => some (testResult (decide (a.toInt ≥ b.toInt)))
  | .sgeu => some (testResult (decide (a.toNat ≥ b.toNat)))
  | .seq => some (testResult (a == b))
  | .sequ => some (testResult (a == b))
  | .sne => some (testResult (a != b))
  | .sneu => some (testResult (a != b))
  | .lhi => some (b <<< 16)

end Sys2Proof.Machine
end

