-- ==== Sys2Proof/Machine/Operands.lean ====
section
/-! DEFINITION. Operand forms: the notation of R9, register operands (R10, R20 to R24), immediates (R106, R107), the effective
address (R210) and the branch target (R205). -/

namespace Sys2Proof.Machine

/-- `A20(v)`: a word reduced to a 20-bit address (R9). -/
def a20 (v : Word) : Addr := v.setWidth 20

/-- `zext_20(v)` (R9). -/
def zext20 (v : BitVec 20) : Word := v.setWidth 32

/-- `sext_20(v)` (R9). -/
def sext20 (v : BitVec 20) : Word := v.signExtend 32

/-- `zext_16(v)` (R9). -/
def zext16 (v : BitVec 16) : Word := v.setWidth 32

/-- `sext_16(v)` (R9). -/
def sext16 (v : BitVec 16) : Word := v.signExtend 32

/-- `x[r]` as an operand: `x[0]` reads 0 (R10, R21). -/
def State.reg (s : State) (r : Reg) : Word :=
  if r = 0#4 then 0#32 else s.gpr[r.toNat]'(by have := r.isLt; omega)

/-- `x[r] <- v`: a write to `x[0]` changes nothing (R10, R21). -/
def State.setReg (s : State) (r : Reg) (v : Word) : State :=
  { s with gpr := if r = 0#4 then s.gpr else s.gpr.set r.toNat v (by have := r.isLt; omega) }

/-- `s[k]` as an operand; no slot is hard-wired (R24). -/
def State.sreg (s : State) (k : SReg) : Word :=
  s.spr[k.toNat]'(by have := k.isLt; omega)

/-- `s[k] <- v`: all 32 bits are stored, in any slot (R24). -/
def State.setSreg (s : State) (k : SReg) (v : Word) : State :=
  { s with spr := s.spr.set k.toNat v (by have := k.isLt; omega) }

/-- The second operand of an immediate form: sign-extended when the low bit of the function code is 0, zero-extended when it
is 1 (R106, R132, R171). -/
def immediateOperand (func : BitVec 5) (imm : BitVec 16) : Word :=
  if func.getLsbD 0 then zext16 imm else sext16 imm

/-- `EA = A20(x[Rs] + sext_20(imm20))` (R210). -/
def effectiveAddress (rs : Reg) (offset : BitVec 20) (s : State) : Addr :=
  a20 (s.reg rs + sext20 offset)

/-- The target of a taken branch, `A20(npc + sext_20(imm20))` with `npc` in `pc` (R205, R13). -/
def branchTarget (offset : BitVec 20) (s : State) : Addr :=
  a20 (zext20 s.pc + sext20 offset)

end Sys2Proof.Machine
end

