-- ==== Sys2Proof/Machine/Ops.lean ====
section
/-! DEFINITION. The named operations: bus transactions (R70, R71), translation and protection (R75), the CPU's memory
primitives (R79), raising and taking exceptions (R12, R240, R241), returning from one (R222), completing an instruction
(R323), and the shared shapes of the meanings (R131, R132). -/

namespace Sys2Proof.Machine

/-- The privilege bit, `cctrl` bit 3: true in kernel mode (R26, R246). -/
def State.kernelMode (s : State) : Bool := (s.sreg cctrlSlot).getLsbD 3

/-- The bit of `status` that GPF sets (R40). -/
def gpfBit : BitVec 16 := 0x1000#16

/-- The bit of `status` that SYSCALL sets (R40). -/
def syscallBit : BitVec 16 := 0x2000#16

/-- The bit of `status` that BREAK sets (R40). -/
def breakBit : BitVec 16 := 0x4000#16

/-- The bit of `status` that ARITH sets (R40). -/
def arithBit : BitVec 16 := 0x8000#16

/-- Raising an exception: its bit of the accumulator is set and nothing else changes; the exception is taken at the next
instruction boundary (R12). -/
def State.raise (s : State) (bit : BitVec 16) : State := { s with status := s.status ||| bit }

/-- An instruction that was not abandoned counts in `icount` (R28, R323). -/
def State.complete (s : State) : State := s.setSreg icountSlot (s.sreg icountSlot + 1#32)

/-- The address bus driven for a read (R70). -/
def State.driveRead (s : State) (pa : Addr) : State := { s with isWrite := false, abus := zext20 pa }

/-- The buses driven for a write (R71). -/
def State.driveWrite (s : State) (pa : Addr) (v : Word) : State := { s with isWrite := true, abus := zext20 pa, dbus := v }

/-- `PhysRead(pa)`, the read transaction: the word, and the state with the bus latches driven and the read side effect done
(R70, R72); an address nothing answers returns the stale data bus (R67). -/
def physRead (pa : Addr) (s : State) : Word × State :=
  match answering s.cfg.parallelVariant pa.toNat with
  | some (d, offset) => (s.deviceWord d offset, { (s.driveRead pa).deviceReadEffect d offset with dbus := s.deviceWord d offset })
  | none => (s.dbus, s.driveRead pa)

/-- `PhysWrite(pa, v)`, the write transaction with the strobe of its tick (R71; log entry 13); an address nothing answers
changes only the bus latches (R67). -/
def physWrite (pa : Addr) (v : Word) (s : State) : State :=
  match answering s.cfg.parallelVariant pa.toNat with
  | some (d, offset) => (s.driveWrite pa v).deviceStore d offset v
  | none => s.driveWrite pa v

/-- What an access through the MPU yields: a value and the next state, or the state in which GPF was raised and the access
abandoned (R12, R77). -/
inductive Access (α : Type) where
  | done (v : α) (s : State)
  | denied (s : State)

/-- The relocated address of user mode (R75, R34). -/
def relocate (la : Addr) (s : State) : Addr := a20 (zext20 la + s.sreg rbaseSlot)

/-- The physical address of the protection table word that governs a physical address (R75, R76). -/
def tableAddress (pa : Addr) (s : State) : Addr := a20 (s.sreg ptableSlot + (pa.extractLsb' 15 5).setWidth 32)

/-- The bit of the table word that governs a physical address (R75, R76). -/
def tableBit (pa : Addr) : Nat := (pa.extractLsb' 10 5).toNat

/-- `Translate(la)`: the logical address itself in kernel mode; in user mode the relocated address if its page's bit is 1,
else GPF (R75). The table read is a bus read with its side effects. -/
def translate (la : Addr) (s : State) : Access Addr :=
  if s.kernelMode then .done la s
  else
    let pa := relocate la s
    let table := physRead (tableAddress pa s) s
    if table.1.getLsbD (tableBit pa) then .done pa table.2
    else .denied (table.2.raise gpfBit)

/-- `MemRead(la, 1)` (R79). -/
def memRead (la : Addr) (s : State) : Access Word :=
  match translate la s with
  | .done pa t => .done (physRead pa t).1 (physRead pa t).2
  | .denied t => .denied t

/-- `MemWrite(la, 1, v)` (R79). -/
def memWrite (la : Addr) (v : Word) (s : State) : Access Unit :=
  match translate la s with
  | .done pa t => .done () (physWrite pa v t)
  | .denied t => .denied t

/-- `Fetch()`: the instruction latch gets the word at `pc` and `pc` advances; a fetch that GPF abandons changes neither (R79,
R38, R321). -/
def fetch (s : State) : Access Unit :=
  match memRead s.pc s with
  | .done w t => .done () { t with ir := w, pc := t.pc + 1#20 }
  | .denied t => .denied t

/-- The refresh of the external bits of the accumulator from the IRQ bus (R236). -/
def State.refreshStatus (s : State) : State :=
  { s with status := (s.status &&& 0xF000#16) ||| ((s.irq &&& 0xFF#32).setWidth 16 <<< 4) }

/-- The set of causes that can be taken (R237). -/
def causeMask (cctrl : Word) : BitVec 16 :=
  if cctrl.getLsbD 1 then ((cctrl &&& 0x0FF0#32).setWidth 16) ||| 0xF000#16 else 0xF000#16

/-- `cctrl` at exception entry: the flags are saved, kernel mode is forced, interrupts are off (R241). -/
def entryCctrl (c : Word) : Word := (c &&& ~~~0xF#32) ||| ((c &&& 0xA#32) >>> 1) ||| 0x8#32

/-- `cctrl` at `rfe`: the saved flags are restored (R222). -/
def returnCctrl (c : Word) : Word := (c &&& ~~~0xA#32) ||| ((c &&& 0x5#32) <<< 1)

/-- `ExceptionEntry(p)`, the one way an exception is taken (R241). -/
def exceptionEntry (p : BitVec 16) (s : State) : State :=
  let s1 := s.setSreg cctrlSlot (entryCctrl (s.sreg cctrlSlot))
  let s2 := s1.setSreg earSlot (zext20 s.pc)
  let s3 := s2.setSreg ersSlot (s.reg savedReg)
  let s4 := s3.setSreg estatSlot (p.setWidth 32)
  { s4 with pc := a20 (s.sreg evecSlot), status := 0#16 }

/-- The effect of a return from exception: flags, `x[13]` and `pc` are restored, nothing else changes (R222, R243). -/
def returnFromException (s : State) : State :=
  let s1 := s.setSreg cctrlSlot (returnCctrl (s.sreg cctrlSlot))
  let s2 := s1.setReg savedReg (s.sreg ersSlot)
  { s2 with pc := a20 (s.sreg earSlot) }

/-- The causes admitted at a boundary: `status & mask` after the refresh (R237, R240). -/
def admittedCauses (s : State) : BitVec 16 :=
  s.refreshStatus.status &&& causeMask (s.sreg cctrlSlot)

/-- `BoundaryCheck()`: refresh, and entry if any admitted cause is set (R240). -/
def boundaryCheck (s : State) : State :=
  if admittedCauses s = 0#16 then s.refreshStatus
  else exceptionEntry (admittedCauses s) s.refreshStatus

/-- The end of an ALU instruction: the result is written and the instruction completes, or ARITH is raised and it is
abandoned (R131, R133, R323). -/
def writeResult (rd : Reg) (result : Option Word) (s : State) : State :=
  match result with
  | some v => (s.setReg rd v).complete
  | none => s.raise arithBit

/-- The register form of an ALU instruction (R131, R170). -/
def aluRegister (f : AluFn) (rd rs rt : Reg) (s : State) : State :=
  writeResult rd (alu f (s.reg rs) (s.reg rt)) s

/-- The immediate form of an ALU instruction (R132, R171). -/
def aluImmediate (f : AluFn) (rd rs : Reg) (imm : BitVec 16) (s : State) : State :=
  writeResult rd (alu f (s.reg rs) (immediateOperand f.code imm)) s

/-- A jump: `pc` takes the target and the instruction completes (R200). -/
def jumpTo (target : Addr) (s : State) : State := State.complete { s with pc := target }

/-- The link: `x[15]` gets the address of the next instruction in memory order, which is in `pc` (R203, R204, R13). -/
def State.link (s : State) : State := s.setReg linkReg (zext20 s.pc)

/-- A conditional branch (R205, R206). -/
def branchIf (taken : Bool) (offset : BitVec 20) (s : State) : State :=
  if taken then jumpTo (branchTarget offset s) s else s.complete

/-- An instruction that only kernel mode may run: in user mode it raises GPF and is abandoned (R223, R224, R231). -/
def privileged (effect : State → State) (s : State) : State :=
  if s.kernelMode then (effect s).complete else s.raise gpfBit

end Sys2Proof.Machine
end

