-- ==== Sys2Proof/Machine/Arithmetic.lean ====
section
/-! DEFINITION. The arithmetic, logical and shift instructions (R130 to R169). -/

namespace Sys2Proof.Machine

/-- `add` (R136). -/
def execAdd (rd rs rt : Reg) (s : State) : Host.Outcome State Fault Refusal :=
  .next (aluRegister .add rd rs rt s)

/-- `addu` (R138). -/
def execAddu (rd rs rt : Reg) (s : State) : Host.Outcome State Fault Refusal :=
  .next (aluRegister .addu rd rs rt s)

/-- `sub` (R140). -/
def execSub (rd rs rt : Reg) (s : State) : Host.Outcome State Fault Refusal :=
  .next (aluRegister .sub rd rs rt s)

/-- `subu` (R142). -/
def execSubu (rd rs rt : Reg) (s : State) : Host.Outcome State Fault Refusal :=
  .next (aluRegister .subu rd rs rt s)

/-- `mult` (R144). -/
def execMult (rd rs rt : Reg) (s : State) : Host.Outcome State Fault Refusal :=
  .next (aluRegister .mult rd rs rt s)

/-- `multu` (R146). -/
def execMultu (rd rs rt : Reg) (s : State) : Host.Outcome State Fault Refusal :=
  .next (aluRegister .multu rd rs rt s)

/-- `div` (R148). -/
def execDiv (rd rs rt : Reg) (s : State) : Host.Outcome State Fault Refusal :=
  .next (aluRegister .div rd rs rt s)

/-- `divu` (R150). -/
def execDivu (rd rs rt : Reg) (s : State) : Host.Outcome State Fault Refusal :=
  .next (aluRegister .divu rd rs rt s)

/-- `rem` (R152). -/
def execRem (rd rs rt : Reg) (s : State) : Host.Outcome State Fault Refusal :=
  .next (aluRegister .rem rd rs rt s)

/-- `remu` (R154). -/
def execRemu (rd rs rt : Reg) (s : State) : Host.Outcome State Fault Refusal :=
  .next (aluRegister .remu rd rs rt s)

/-- `sll` (R156). -/
def execSll (rd rs rt : Reg) (s : State) : Host.Outcome State Fault Refusal :=
  .next (aluRegister .sll rd rs rt s)

/-- `and` (R158). -/
def execAnd (rd rs rt : Reg) (s : State) : Host.Outcome State Fault Refusal :=
  .next (aluRegister .and rd rs rt s)

/-- `srl` (R160). -/
def execSrl (rd rs rt : Reg) (s : State) : Host.Outcome State Fault Refusal :=
  .next (aluRegister .srl rd rs rt s)

/-- `or` (R162). -/
def execOr (rd rs rt : Reg) (s : State) : Host.Outcome State Fault Refusal :=
  .next (aluRegister .or rd rs rt s)

/-- `sra` (R164). -/
def execSra (rd rs rt : Reg) (s : State) : Host.Outcome State Fault Refusal :=
  .next (aluRegister .sra rd rs rt s)

/-- `xor` (R166). -/
def execXor (rd rs rt : Reg) (s : State) : Host.Outcome State Fault Refusal :=
  .next (aluRegister .xor rd rs rt s)

/-- `addi` (R137). -/
def execAddi (rd rs : Reg) (imm : BitVec 16) (s : State) : Host.Outcome State Fault Refusal :=
  .next (aluImmediate .add rd rs imm s)

/-- `addui` (R139). -/
def execAddui (rd rs : Reg) (imm : BitVec 16) (s : State) : Host.Outcome State Fault Refusal :=
  .next (aluImmediate .addu rd rs imm s)

/-- `subi` (R141). -/
def execSubi (rd rs : Reg) (imm : BitVec 16) (s : State) : Host.Outcome State Fault Refusal :=
  .next (aluImmediate .sub rd rs imm s)

/-- `subui` (R143). -/
def execSubui (rd rs : Reg) (imm : BitVec 16) (s : State) : Host.Outcome State Fault Refusal :=
  .next (aluImmediate .subu rd rs imm s)

/-- `multi` (R145). -/
def execMulti (rd rs : Reg) (imm : BitVec 16) (s : State) : Host.Outcome State Fault Refusal :=
  .next (aluImmediate .mult rd rs imm s)

/-- `multui` (R147). -/
def execMultui (rd rs : Reg) (imm : BitVec 16) (s : State) : Host.Outcome State Fault Refusal :=
  .next (aluImmediate .multu rd rs imm s)

/-- `divi` (R149). -/
def execDivi (rd rs : Reg) (imm : BitVec 16) (s : State) : Host.Outcome State Fault Refusal :=
  .next (aluImmediate .div rd rs imm s)

/-- `divui` (R151). -/
def execDivui (rd rs : Reg) (imm : BitVec 16) (s : State) : Host.Outcome State Fault Refusal :=
  .next (aluImmediate .divu rd rs imm s)

/-- `remi` (R153). -/
def execRemi (rd rs : Reg) (imm : BitVec 16) (s : State) : Host.Outcome State Fault Refusal :=
  .next (aluImmediate .rem rd rs imm s)

/-- `remui` (R155). -/
def execRemui (rd rs : Reg) (imm : BitVec 16) (s : State) : Host.Outcome State Fault Refusal :=
  .next (aluImmediate .remu rd rs imm s)

/-- `slli` (R157). -/
def execSlli (rd rs : Reg) (imm : BitVec 16) (s : State) : Host.Outcome State Fault Refusal :=
  .next (aluImmediate .sll rd rs imm s)

/-- `andi` (R159). -/
def execAndi (rd rs : Reg) (imm : BitVec 16) (s : State) : Host.Outcome State Fault Refusal :=
  .next (aluImmediate .and rd rs imm s)

/-- `srli` (R161). -/
def execSrli (rd rs : Reg) (imm : BitVec 16) (s : State) : Host.Outcome State Fault Refusal :=
  .next (aluImmediate .srl rd rs imm s)

/-- `ori` (R163). -/
def execOri (rd rs : Reg) (imm : BitVec 16) (s : State) : Host.Outcome State Fault Refusal :=
  .next (aluImmediate .or rd rs imm s)

/-- `srai` (R165). -/
def execSrai (rd rs : Reg) (imm : BitVec 16) (s : State) : Host.Outcome State Fault Refusal :=
  .next (aluImmediate .sra rd rs imm s)

/-- `xori` (R167). -/
def execXori (rd rs : Reg) (imm : BitVec 16) (s : State) : Host.Outcome State Fault Refusal :=
  .next (aluImmediate .xor rd rs imm s)

end Sys2Proof.Machine
end

