-- ==== Sys2Proof/Machine/Control.lean ====
section
/-! DEFINITION. The control transfer instructions (R200 to R208). `pc` already holds the address after the instruction (R13). -/

namespace Sys2Proof.Machine

/-- `j` (R201). -/
def execJ (target : Addr) (s : State) : Host.Outcome State Fault Refusal :=
  .next (jumpTo target s)

/-- `jr` (R202). -/
def execJr (rs : Reg) (s : State) : Host.Outcome State Fault Refusal :=
  .next (jumpTo (a20 (s.reg rs)) s)

/-- `jal` (R203). -/
def execJal (target : Addr) (s : State) : Host.Outcome State Fault Refusal :=
  .next (jumpTo target s.link)

/-- `jalr` (R204): the target is read before the link is written. -/
def execJalr (rs : Reg) (s : State) : Host.Outcome State Fault Refusal :=
  .next (jumpTo (a20 (s.reg rs)) s.link)

/-- `beqz` (R205). -/
def execBeqz (rs : Reg) (offset : BitVec 20) (s : State) : Host.Outcome State Fault Refusal :=
  .next (branchIf (s.reg rs == 0#32) offset s)

/-- `bnez` (R206). -/
def execBnez (rs : Reg) (offset : BitVec 20) (s : State) : Host.Outcome State Fault Refusal :=
  .next (branchIf (s.reg rs != 0#32) offset s)

end Sys2Proof.Machine
end

