-- ==== Sys2Proof/Machine/LoadStore.lean ====
section
/-! DEFINITION. `lw`, `sw` and `la` (R210 to R215). -/

namespace Sys2Proof.Machine

/-- `lw` (R211). -/
def execLw (rd rs : Reg) (offset : BitVec 20) (s : State) : Host.Outcome State Fault Refusal :=
  match memRead (effectiveAddress rs offset s) s with
  | .done v t => .next (t.setReg rd v).complete
  | .denied t => .next t

/-- `sw` (R212). -/
def execSw (rd rs : Reg) (offset : BitVec 20) (s : State) : Host.Outcome State Fault Refusal :=
  match memWrite (effectiveAddress rs offset s) (s.reg rd) s with
  | .done _ t => .next t.complete
  | .denied t => .next t

/-- `la` (R213). -/
def execLa (rd : Reg) (address : Addr) (s : State) : Host.Outcome State Fault Refusal :=
  .next (s.setReg rd (zext20 address)).complete

end Sys2Proof.Machine
end

