-- ==== Sys2Proof/Machine/System.lean ====
section
/-! DEFINITION. The system instructions and the undefined words (R220 to R227). `break` and `syscall` complete: they count in
`icount`, and their exception is taken at the next boundary (R220, R221, R323). -/

namespace Sys2Proof.Machine

/-- `break` (R220). -/
def execBreak (s : State) : Host.Outcome State Fault Refusal :=
  .next (s.raise breakBit).complete

/-- `syscall` (R221). -/
def execSyscall (s : State) : Host.Outcome State Fault Refusal :=
  .next (s.raise syscallBit).complete

/-- `rfe` (R222). -/
def execRfe (s : State) : Host.Outcome State Fault Refusal :=
  .next (if s.cfg.rfePrivileged && !s.kernelMode then s.raise gpfBit else (returnFromException s).complete)

/-- `movgs` (R223). -/
def execMovgs (sd : SReg) (rs : Reg) (s : State) : Host.Outcome State Fault Refusal :=
  .next (privileged (fun s => s.setSreg sd (s.reg rs)) s)

/-- `movsg` (R224). -/
def execMovsg (rd : Reg) (ss : SReg) (s : State) : Host.Outcome State Fault Refusal :=
  .next (privileged (fun s => s.setReg rd (s.sreg ss)) s)

/-- A word that selects no instruction raises GPF and nothing else (R225). -/
def execUndefined (s : State) : State := s.raise gpfBit

end Sys2Proof.Machine
end

