-- ==== Sys2Proof/Machine/Test.lean ====
section
/-! DEFINITION. The comparison instructions and `lhi` (R170 to R198). `lhi` ignores its first operand (R196). -/

namespace Sys2Proof.Machine

/-- `slt` (R172). -/
def execSlt (rd rs rt : Reg) (s : State) : Host.Outcome State Fault Refusal :=
  .next (aluRegister .slt rd rs rt s)

/-- `sltu` (R174). -/
def execSltu (rd rs rt : Reg) (s : State) : Host.Outcome State Fault Refusal :=
  .next (aluRegister .sltu rd rs rt s)

/-- `sgt` (R176). -/
def execSgt (rd rs rt : Reg) (s : State) : Host.Outcome State Fault Refusal :=
  .next (aluRegister .sgt rd rs rt s)

/-- `sgtu` (R178). -/
def execSgtu (rd rs rt : Reg) (s : State) : Host.Outcome State Fault Refusal :=
  .next (aluRegister .sgtu rd rs rt s)

/-- `sle` (R180). -/
def execSle (rd rs rt : Reg) (s : State) : Host.Outcome State Fault Refusal :=
  .next (aluRegister .sle rd rs rt s)

/-- `sleu` (R182). -/
def execSleu (rd rs rt : Reg) (s : State) : Host.Outcome State Fault Refusal :=
  .next (aluRegister .sleu rd rs rt s)

/-- `sge` (R184). -/
def execSge (rd rs rt : Reg) (s : State) : Host.Outcome State Fault Refusal :=
  .next (aluRegister .sge rd rs rt s)

/-- `sgeu` (R186). -/
def execSgeu (rd rs rt : Reg) (s : State) : Host.Outcome State Fault Refusal :=
  .next (aluRegister .sgeu rd rs rt s)

/-- `seq` (R188). -/
def execSeq (rd rs rt : Reg) (s : State) : Host.Outcome State Fault Refusal :=
  .next (aluRegister .seq rd rs rt s)

/-- `sequ` (R190). -/
def execSequ (rd rs rt : Reg) (s : State) : Host.Outcome State Fault Refusal :=
  .next (aluRegister .sequ rd rs rt s)

/-- `sne` (R192). -/
def execSne (rd rs rt : Reg) (s : State) : Host.Outcome State Fault Refusal :=
  .next (aluRegister .sne rd rs rt s)

/-- `sneu` (R194). -/
def execSneu (rd rs rt : Reg) (s : State) : Host.Outcome State Fault Refusal :=
  .next (aluRegister .sneu rd rs rt s)

/-- `slti` (R173). -/
def execSlti (rd rs : Reg) (imm : BitVec 16) (s : State) : Host.Outcome State Fault Refusal :=
  .next (aluImmediate .slt rd rs imm s)

/-- `sltui` (R175). -/
def execSltui (rd rs : Reg) (imm : BitVec 16) (s : State) : Host.Outcome State Fault Refusal :=
  .next (aluImmediate .sltu rd rs imm s)

/-- `sgti` (R177). -/
def execSgti (rd rs : Reg) (imm : BitVec 16) (s : State) : Host.Outcome State Fault Refusal :=
  .next (aluImmediate .sgt rd rs imm s)

/-- `sgtui` (R179). -/
def execSgtui (rd rs : Reg) (imm : BitVec 16) (s : State) : Host.Outcome State Fault Refusal :=
  .next (aluImmediate .sgtu rd rs imm s)

/-- `slei` (R181). -/
def execSlei (rd rs : Reg) (imm : BitVec 16) (s : State) : Host.Outcome State Fault Refusal :=
  .next (aluImmediate .sle rd rs imm s)

/-- `sleui` (R183). -/
def execSleui (rd rs : Reg) (imm : BitVec 16) (s : State) : Host.Outcome State Fault Refusal :=
  .next (aluImmediate .sleu rd rs imm s)

/-- `sgei` (R185). -/
def execSgei (rd rs : Reg) (imm : BitVec 16) (s : State) : Host.Outcome State Fault Refusal :=
  .next (aluImmediate .sge rd rs imm s)

/-- `sgeui` (R187). -/
def execSgeui (rd rs : Reg) (imm : BitVec 16) (s : State) : Host.Outcome State Fault Refusal :=
  .next (aluImmediate .sgeu rd rs imm s)

/-- `seqi` (R189). -/
def execSeqi (rd rs : Reg) (imm : BitVec 16) (s : State) : Host.Outcome State Fault Refusal :=
  .next (aluImmediate .seq rd rs imm s)

/-- `sequi` (R191). -/
def execSequi (rd rs : Reg) (imm : BitVec 16) (s : State) : Host.Outcome State Fault Refusal :=
  .next (aluImmediate .sequ rd rs imm s)

/-- `snei` (R193). -/
def execSnei (rd rs : Reg) (imm : BitVec 16) (s : State) : Host.Outcome State Fault Refusal :=
  .next (aluImmediate .sne rd rs imm s)

/-- `sneui` (R195). -/
def execSneui (rd rs : Reg) (imm : BitVec 16) (s : State) : Host.Outcome State Fault Refusal :=
  .next (aluImmediate .sneu rd rs imm s)

/-- `lhi` (R196). -/
def execLhi (rd : Reg) (imm : BitVec 16) (s : State) : Host.Outcome State Fault Refusal :=
  .next (aluImmediate .lhi rd 0#4 imm s)

end Sys2Proof.Machine
end

