-- ==== Sys2Proof/Machine/Dispatch.lean ====
section
/-! DEFINITION. One arm per instruction: the meaning of each (R12, R13). `exec` runs on a state whose `pc` is already past the
instruction (R13, log entry 24). -/

namespace Sys2Proof.Machine

/-- What an instruction does once it has been fetched and its cost looked up. -/
def exec (i : Instr) (s : State) : Host.Outcome State Fault Refusal :=
  match i with
  | .add rd rs rt => Sys2Proof.Machine.execAdd rd rs rt s
  | .addu rd rs rt => Sys2Proof.Machine.execAddu rd rs rt s
  | .sub rd rs rt => Sys2Proof.Machine.execSub rd rs rt s
  | .subu rd rs rt => Sys2Proof.Machine.execSubu rd rs rt s
  | .mult rd rs rt => Sys2Proof.Machine.execMult rd rs rt s
  | .multu rd rs rt => Sys2Proof.Machine.execMultu rd rs rt s
  | .div rd rs rt => Sys2Proof.Machine.execDiv rd rs rt s
  | .divu rd rs rt => Sys2Proof.Machine.execDivu rd rs rt s
  | .rem rd rs rt => Sys2Proof.Machine.execRem rd rs rt s
  | .remu rd rs rt => Sys2Proof.Machine.execRemu rd rs rt s
  | .sll rd rs rt => Sys2Proof.Machine.execSll rd rs rt s
  | .and rd rs rt => Sys2Proof.Machine.execAnd rd rs rt s
  | .srl rd rs rt => Sys2Proof.Machine.execSrl rd rs rt s
  | .or rd rs rt => Sys2Proof.Machine.execOr rd rs rt s
  | .sra rd rs rt => Sys2Proof.Machine.execSra rd rs rt s
  | .xor rd rs rt => Sys2Proof.Machine.execXor rd rs rt s
  | .addi rd rs imm => Sys2Proof.Machine.execAddi rd rs imm s
  | .addui rd rs imm => Sys2Proof.Machine.execAddui rd rs imm s
  | .subi rd rs imm => Sys2Proof.Machine.execSubi rd rs imm s
  | .subui rd rs imm => Sys2Proof.Machine.execSubui rd rs imm s
  | .multi rd rs imm => Sys2Proof.Machine.execMulti rd rs imm s
  | .multui rd rs imm => Sys2Proof.Machine.execMultui rd rs imm s
  | .divi rd rs imm => Sys2Proof.Machine.execDivi rd rs imm s
  | .divui rd rs imm => Sys2Proof.Machine.execDivui rd rs imm s
  | .remi rd rs imm => Sys2Proof.Machine.execRemi rd rs imm s
  | .remui rd rs imm => Sys2Proof.Machine.execRemui rd rs imm s
  | .slli rd rs imm => Sys2Proof.Machine.execSlli rd rs imm s
  | .andi rd rs imm => Sys2Proof.Machine.execAndi rd rs imm s
  | .srli rd rs imm => Sys2Proof.Machine.execSrli rd rs imm s
  | .ori rd rs imm => Sys2Proof.Machine.execOri rd rs imm s
  | .srai rd rs imm => Sys2Proof.Machine.execSrai rd rs imm s
  | .xori rd rs imm => Sys2Proof.Machine.execXori rd rs imm s
  | .slt rd rs rt => Sys2Proof.Machine.execSlt rd rs rt s
  | .sltu rd rs rt => Sys2Proof.Machine.execSltu rd rs rt s
  | .sgt rd rs rt => Sys2Proof.Machine.execSgt rd rs rt s
  | .sgtu rd rs rt => Sys2Proof.Machine.execSgtu rd rs rt s
  | .sle rd rs rt => Sys2Proof.Machine.execSle rd rs rt s
  | .sleu rd rs rt => Sys2Proof.Machine.execSleu rd rs rt s
  | .sge rd rs rt => Sys2Proof.Machine.execSge rd rs rt s
  | .sgeu rd rs rt => Sys2Proof.Machine.execSgeu rd rs rt s
  | .seq rd rs rt => Sys2Proof.Machine.execSeq rd rs rt s
  | .sequ rd rs rt => Sys2Proof.Machine.execSequ rd rs rt s
  | .sne rd rs rt => Sys2Proof.Machine.execSne rd rs rt s
  | .sneu rd rs rt => Sys2Proof.Machine.execSneu rd rs rt s
  | .brk => Sys2Proof.Machine.execBreak s
  | .syscall => Sys2Proof.Machine.execSyscall s
  | .rfe => Sys2Proof.Machine.execRfe s
  | .slti rd rs imm => Sys2Proof.Machine.execSlti rd rs imm s
  | .sltui rd rs imm => Sys2Proof.Machine.execSltui rd rs imm s
  | .sgti rd rs imm => Sys2Proof.Machine.execSgti rd rs imm s
  | .sgtui rd rs imm => Sys2Proof.Machine.execSgtui rd rs imm s
  | .slei rd rs imm => Sys2Proof.Machine.execSlei rd rs imm s
  | .sleui rd rs imm => Sys2Proof.Machine.execSleui rd rs imm s
  | .sgei rd rs imm => Sys2Proof.Machine.execSgei rd rs imm s
  | .sgeui rd rs imm => Sys2Proof.Machine.execSgeui rd rs imm s
  | .seqi rd rs imm => Sys2Proof.Machine.execSeqi rd rs imm s
  | .sequi rd rs imm => Sys2Proof.Machine.execSequi rd rs imm s
  | .snei rd rs imm => Sys2Proof.Machine.execSnei rd rs imm s
  | .sneui rd rs imm => Sys2Proof.Machine.execSneui rd rs imm s
  | .movgs sd rs => Sys2Proof.Machine.execMovgs sd rs s
  | .movsg rd ss => Sys2Proof.Machine.execMovsg rd ss s
  | .lhi rd imm => Sys2Proof.Machine.execLhi rd imm s
  | .j target => Sys2Proof.Machine.execJ target s
  | .jr rs => Sys2Proof.Machine.execJr rs s
  | .jal target => Sys2Proof.Machine.execJal target s
  | .jalr rs => Sys2Proof.Machine.execJalr rs s
  | .lw rd rs offset => Sys2Proof.Machine.execLw rd rs offset s
  | .sw rd rs offset => Sys2Proof.Machine.execSw rd rs offset s
  | .beqz rs offset => Sys2Proof.Machine.execBeqz rs offset s
  | .bnez rs offset => Sys2Proof.Machine.execBnez rs offset s
  | .la rd address => Sys2Proof.Machine.execLa rd address s

end Sys2Proof.Machine
end

