-- ==== Sys2Proof/Machine/Timing.lean ====
section
/-! DEFINITION. The cost of an instruction in ticks (R325). -/

namespace Sys2Proof.Machine

/-- The class of an instruction (R325; R135, R197, R208, R215, R227). -/
def timingClass : Instr → TimingClass
  | .add _ _ _ => .alu
  | .addu _ _ _ => .alu
  | .sub _ _ _ => .alu
  | .subu _ _ _ => .alu
  | .mult _ _ _ => .muldiv
  | .multu _ _ _ => .muldiv
  | .div _ _ _ => .muldiv
  | .divu _ _ _ => .muldiv
  | .rem _ _ _ => .muldiv
  | .remu _ _ _ => .muldiv
  | .sll _ _ _ => .alu
  | .and _ _ _ => .alu
  | .srl _ _ _ => .alu
  | .or _ _ _ => .alu
  | .sra _ _ _ => .alu
  | .xor _ _ _ => .alu
  | .addi _ _ _ => .alu
  | .addui _ _ _ => .alu
  | .subi _ _ _ => .alu
  | .subui _ _ _ => .alu
  | .multi _ _ _ => .muldiv
  | .multui _ _ _ => .muldiv
  | .divi _ _ _ => .muldiv
  | .divui _ _ _ => .muldiv
  | .remi _ _ _ => .muldiv
  | .remui _ _ _ => .muldiv
  | .slli _ _ _ => .alu
  | .andi _ _ _ => .alu
  | .srli _ _ _ => .alu
  | .ori _ _ _ => .alu
  | .srai _ _ _ => .alu
  | .xori _ _ _ => .alu
  | .slt _ _ _ => .alu
  | .sltu _ _ _ => .alu
  | .sgt _ _ _ => .alu
  | .sgtu _ _ _ => .alu
  | .sle _ _ _ => .alu
  | .sleu _ _ _ => .alu
  | .sge _ _ _ => .alu
  | .sgeu _ _ _ => .alu
  | .seq _ _ _ => .alu
  | .sequ _ _ _ => .alu
  | .sne _ _ _ => .alu
  | .sneu _ _ _ => .alu
  | .brk => .system
  | .syscall => .system
  | .rfe => .system
  | .slti _ _ _ => .alu
  | .sltui _ _ _ => .alu
  | .sgti _ _ _ => .alu
  | .sgtui _ _ _ => .alu
  | .slei _ _ _ => .alu
  | .sleui _ _ _ => .alu
  | .sgei _ _ _ => .alu
  | .sgeui _ _ _ => .alu
  | .seqi _ _ _ => .alu
  | .sequi _ _ _ => .alu
  | .snei _ _ _ => .alu
  | .sneui _ _ _ => .alu
  | .movgs _ _ => .system
  | .movsg _ _ => .system
  | .lhi _ _ => .alu
  | .j _ => .jump
  | .jr _ => .jump
  | .jal _ => .jump
  | .jalr _ => .jump
  | .lw _ _ _ => .load
  | .sw _ _ _ => .store
  | .beqz _ _ => .branch
  | .bnez _ _ => .branch
  | .la _ _ => .la

/-- The branch is taken: the adjustment of R325 looks at `x[Rs]` before execution. -/
def branchTaken (i : Instr) (s : State) : Bool :=
  match i with
  | .beqz rs _ => s.reg rs == 0#32
  | .bnez rs _ => s.reg rs != 0#32
  | _ => false

/-- `Cost(ir)` with the register values before execution: the class's ticks, one more for a taken branch (R325). -/
def cost (i : Instr) (s : State) : Nat :=
  s.cfg.ticks.of (timingClass i) + (if branchTaken i s then 1 else 0)

/-- The cost of a word that selects no instruction (R225, R325). -/
def undefinedCost (s : State) : Nat := s.cfg.ticks.of .system

/-- The countdown an instruction of the given cost leaves when it is issued (R320). -/
def State.occupy (s : State) (ticks : Nat) : State := { s with countdown := ticks - 1 }

end Sys2Proof.Machine
end

