-- ==== Sys2Proof/Machine/Tick.lean ====
section
/-! DEFINITION. One tick of the board clock (R315, R320) in named parts, and how a word is placed where the next tick fetches
it. -/

namespace Sys2Proof.Machine

/-- The start of a tick: the board's tick counter and `ccount` advance, whatever else happens (R315, R320, R29). The outputs
of the previous tick are dropped (log entry 14). -/
def beginTick (s : State) : State :=
  State.setSreg { s with ticks := s.ticks + 1, completed := false, sent := [] } ccountSlot (s.sreg ccountSlot + 1#32)

/-- A tick in which the CPU only counts (R320). -/
def countDown (s : State) : State := { s with countdown := s.countdown - 1 }

/-- The end of a tick: the devices take their clock steps and the tick returns its result to the host (R315). -/
def finishTick (completed : Bool) (s : State) : State := { s.tickDevices with completed := completed }

/-- The state in which a decoded instruction executes: its cost is looked up first, with the register values before
execution (R320). -/
def issueState (i : Instr) (t : State) : State := t.occupy (cost i t)

/-- A fetched word that selects no instruction (R225). -/
def issueUndefined (t : State) : State := execUndefined (t.occupy (undefinedCost t))

/-- The state at the fetch of a tick that begins at a boundary (R320). -/
def atFetch (s : State) : State := boundaryCheck (beginTick s)

/-- `BoardTick` (R315) with `CpuTick` (R320, R321, R322). -/
def boardTick (s : State) : Host.Outcome State Fault Refusal :=
  if 0 < s.countdown then .next (finishTick false (countDown (beginTick s)))
  else
    match fetch (atFetch s) with
    | .denied t => .next (finishTick true t)
    | .done _ t =>
      match decode t.ir with
      | .error _ => .next (finishTick true (issueUndefined t))
      | .ok i =>
        match exec i (issueState i t) with
        | .next u => .next (finishTick true u)
        | .fault f => .fault f
        | .refused r => .refused r

/-- The timer with a word replaced and no side effect. -/
def Timer.poke (t : Timer) (offset : Nat) (v : Word) : Timer :=
  match offset with
  | 0 => { t with control := v }
  | 1 => { t with load := v }
  | 2 => { t with count := v }
  | _ => { t with iack := v }

/-- A serial port with a word replaced and no side effect. -/
def Serial.poke (p : Serial) (offset : Nat) (v : Word) : Serial :=
  match offset with
  | 0 => { p with tx := v }
  | 1 => { p with rx := v }
  | 2 => { p with control := v }
  | 3 => { p with status := v }
  | _ => { p with iack := v }

/-- The parallel controller with a word replaced and no side effect. -/
def Parallel.poke (p : Parallel) (offset : Nat) (v : Word) : Parallel :=
  match offset with
  | 0 => { p with switches := v }
  | 1 => { p with buttons := v }
  | 2 => { p with ssdLeft := v }
  | 3 => { p with ssdRight := v }
  | 4 => { p with control := v }
  | 5 => { p with iack := v }
  | 6 => { p with ssdUpperLeft := v }
  | 7 => { p with ssdUpperRight := v }
  | 8 => { p with ssdLowerLeft := v }
  | 9 => { p with ssdLowerRight := v }
  | _ => { p with leds := v }

/-- The state in which a read of physical address `a` yields `v`: the word there is replaced without any side effect, and
where nothing answers the data bus is (R67). A tool for placing a program, no part of a step (log entry 26). -/
def State.poke (s : State) (a : Nat) (v : Word) : State :=
  match answering s.cfg.parallelVariant a with
  | some (.ram, offset) => { s with mem := s.mem.writeWord offset v }
  | some (.rom, offset) => { s with mem := s.mem.writeWord (romBase + offset) v }
  | some (.serial p, offset) => s.setSerial p ((s.serial p).poke offset v)
  | some (.timer, offset) => { s with timer := s.timer.poke offset v }
  | some (.parallel, offset) => { s with parallel := s.parallel.poke offset v }
  | some (.button, _) => { s with button := v }
  | none => { s with dbus := v }

/-- The word a read of physical address `a` would return, with no side effect (R291, R67). -/
def State.busWord (s : State) (a : Nat) : Word :=
  match answering s.cfg.parallelVariant a with
  | some (d, offset) => s.deviceWord d offset
  | none => s.dbus

/-- The state whose very next tick fetches `w`: the tick is a boundary, the word stands at the physical address of the fetch,
and in user mode the page of that address is permitted (log entry 26). -/
def placeForFetch (s : State) (w : Word) : State :=
  let ready : State := { s with countdown := 0 }
  let f := atFetch ready
  if f.kernelMode then ready.poke f.pc.toNat w
  else
    let pa := relocate f.pc f
    let table := (tableAddress pa f).toNat
    (ready.poke table (ready.busWord table ||| (1#32 <<< tableBit pa))).poke pa.toNat w

end Sys2Proof.Machine
end

