-- ==== Sys2Proof/Machine/Step.lean ====
section
/-! DEFINITION. One step of the model is one tick of the board clock (R315, log entry 6). -/

namespace Sys2Proof.Machine

/-- `BoardTick` (R315): the machine's one step. What the host does, it does between two steps (R330). -/
def step (s : State) : Host.Outcome State Fault Refusal := boardTick s

/-- The state with the instruction whose bits are `w` placed where the next step fetches it; the bits above `nbits` are 0. It
stands for the load of a program from outside (R310, log entry 6). -/
def State.withFetchWord (s : State) (nbits w : Nat) : State := placeForFetch s (BitVec.ofNat 32 (w % 2 ^ nbits))

end Sys2Proof.Machine
end

