-- ==== Sys2Proof/Machine/HostOps.lean ====
section
/-! DEFINITION. What the host does to the machine between two ticks (R330), except the loader (Machine/Srec.lean) and the
operations that run ticks (Machine/HostRun.lean), and what it reads from it. -/

namespace Sys2Proof.Machine

/-- `Reset(keep_memory)` (R300, R301, R52): ROM, the tick counter and `display_changed` are unchanged; the values R52 leaves
unspecified are the configuration's. -/
def boardReset (keepMemory : Bool) (s : State) : State :=
  { s with
    gpr := resetGpr s.cfg.resetFill
    spr := resetSpr s.cfg.resetFill
    pc := resetPc
    status := 0#16
    ir := s.cfg.resetIr
    countdown := 0
    abus := 0#32
    isWrite := false
    dbus := s.cfg.resetDbus
    mem := if keepMemory then s.mem else s.mem.clearRam
    timer := resetTimer
    serial1 := resetSerial s.cfg.resetRxPending
    serial2 := resetSerial s.cfg.resetRxPending
    parallel := resetParallel s.parallel.displayChanged
    button := 0#32
    completed := false
    sent := [] }

/-- `Press()` (R286). -/
def pressButton (s : State) : State := { s with button := s.button ||| 1#32 }

/-- `Release()` (R286). -/
def releaseButton (s : State) : State := { s with button := 0#32 }

/-- `HostSetSwitches(v)` (R279). -/
def setSwitches (v : Word) (s : State) : State :=
  { s with parallel := Parallel.noteChange { s.parallel with switches := v } }

/-- `HostSetButtons(v)` (R279). -/
def setButtons (v : Word) (s : State) : State :=
  { s with parallel := Parallel.noteChange { s.parallel with buttons := v } }

/-- The presentation layer clears `display_changed` (R281). -/
def clearDisplayChanged (s : State) : State :=
  { s with parallel := { s.parallel with displayChanged := false } }

/-- `TrySend(P, b)`: if the port is ready a reception starts and the byte is accepted, else nothing changes (R288, R270). -/
def trySend (p : Port) (b : Byte) (s : State) : Bool × State :=
  if (s.serial p).ready then
    (true, s.setSerial p (Serial.startReceive s.cfg.clockHz s.cfg.rxGuardTicks (s.serial p) b))
  else (false, s)

/-- The raw peek by absolute address: a device's word with no side effect (R291). -/
def peek (a : Nat) (s : State) : Option Word :=
  match answering s.cfg.parallelVariant a with
  | some (d, offset) => some (s.deviceWord d offset)
  | none => none

/-- The disassembler's read: the instruction at an address and no device state changed (R291). It drives the address bus with
the address (R43) and leaves `is_write` 0, but makes no bus transaction (R72), so that the data bus, which a program can
observe, stays as it is (log entry 29, DEDUCED). -/
def disassemble (a : Addr) (s : State) : Option (Except Undefined Instr) × State :=
  ((peek a.toNat s).map decode, s.driveRead a)

/-- The displays of the parallel controller. -/
inductive Display where
  | left
  | right
  | upperLeft
  | upperRight
  | lowerLeft
  | lowerRight
deriving DecidableEq, Repr

/-- The offset of the register behind a display (R277). -/
def Display.offset : Display → Nat
  | .left => 2
  | .right => 3
  | .upperLeft => 6
  | .upperRight => 7
  | .lowerLeft => 8
  | .lowerRight => 9

/-- The host's view of a register of the parallel controller: none where the variant does not have the register (R284; log
entry 28, DESIGN CHOICE). -/
def Parallel.shown (v : ParallelVariant) (p : Parallel) (offset : Nat) : Option Word :=
  if offset < v.length then some (p.word offset) else none

/-- What the host sees on a display (R280); nothing on one the variant does not have (log entry 28). -/
def displaySegments (d : Display) (s : State) : Option Byte :=
  (Parallel.shown s.cfg.parallelVariant s.parallel d.offset).map (segments s.cfg.ssdTable s.parallel.control)

/-- What the host sees on the LEDs (R282); nothing in the 6-word variant, which has no `leds` (log entry 28). -/
def ledsShown (s : State) : Option Word := Parallel.shown s.cfg.parallelVariant s.parallel 10

end Sys2Proof.Machine
end

