-- ==== Sys2Proof/Machine/Srec.lean ====
section
/-! DEFINITION. The S-record loader, an operation of the host between two ticks (R310 to R314). The text is a list of
characters; where R310 to R312 leave a point open, log entries 15 to 20 say what the model does. -/

namespace Sys2Proof.Machine

/-- Why a load stops at a record (R312). -/
inductive LoadError where
  /-- The line does not begin with `S`. -/
  | noRecordMark
  /-- The type digit is none of 0, 1, 2, 3, 5, 7, 8, 9. -/
  | badType
  /-- A character that should be a hex digit is none. -/
  | badDigit
  /-- The line is shorter than its count says. -/
  | tooShort
  /-- The count leaves no room for the address and the checksum (log entry 17). -/
  | badCount
  /-- The checksum does not match. -/
  | badChecksum
  /-- The payload of a type 3 record is not a multiple of 4 bytes. -/
  | badPayload
deriving DecidableEq, Repr

/-- The value of a hex digit, of either case (log entry 18). -/
def hexDigit (c : Char) : Option Nat :=
  let n := c.toNat
  if 48 ≤ n ∧ n ≤ 57 then some (n - 48)
  else if 65 ≤ n ∧ n ≤ 70 then some (n - 55)
  else if 97 ≤ n ∧ n ≤ 102 then some (n - 87)
  else none

/-- The first `count` bytes of a text of hex digits, two digits a byte. -/
def hexBytes : Nat → List Char → Except LoadError (List Byte)
  | 0, _ => .ok []
  | n + 1, hi :: lo :: rest =>
    match hexDigit hi, hexDigit lo with
    | some h, some l =>
      match hexBytes n rest with
      | .ok bytes => .ok (BitVec.ofNat 8 (16 * h + l) :: bytes)
      | .error e => .error e
    | _, _ => .error .badDigit
  | _ + 1, _ => .error .tooShort

/-- The record types, with the number of address bytes of each (R310). -/
def addressBytes (type : Char) : Option Nat :=
  if type = '0' ∨ type = '1' ∨ type = '5' ∨ type = '9' then some 2
  else if type = '2' ∨ type = '8' then some 3
  else if type = '3' ∨ type = '7' then some 4
  else none

/-- A number from its bytes, the first the highest (R310). -/
def bigEndian (bytes : List Byte) : Nat := bytes.foldl (fun n b => 256 * n + b.toNat) 0

/-- The checksum of a record: the ones' complement of the low byte of the sum of the count, address and payload bytes
(R310). -/
def checksum (bytes : List Byte) : Byte := ~~~(bytes.foldl (fun n b => n + b) 0#8)

/-- A parsed and checksummed record: its type digit, its address and its payload. -/
structure Record where
  type : Char
  address : Nat
  payload : List Byte
deriving DecidableEq, Repr

/-- The words of a payload, each of four bytes, the first the highest; `none` if bytes are left over (R310). -/
def payloadWords : List Byte → Option (List Word)
  | [] => some []
  | b0 :: b1 :: b2 :: b3 :: rest =>
    match payloadWords rest with
    | some ws => some (wordOfBytes b0 b1 b2 b3 :: ws)
    | none => none
  | _ => none

/-- The record on a line (R310, R312). Characters beyond the record's end are not looked at (log entry 16). -/
def parseRecord (line : List Char) : Except LoadError Record :=
  match line with
  | 'S' :: type :: text =>
    match addressBytes type with
    | none => .error .badType
    | some n =>
      match hexBytes 1 text with
      | .error e => .error e
      | .ok count =>
        match hexBytes (bigEndian count) (text.drop 2) with
        | .error e => .error e
        | .ok body =>
          if body.length < n + 1 then .error .badCount
          else if body.getLast? ≠ some (checksum (count ++ body.dropLast)) then .error .badChecksum
          else if type = '3' ∧ (body.dropLast.drop n).length % 4 ≠ 0 then .error .badPayload
          else .ok { type := type, address := bigEndian (body.take n), payload := body.dropLast.drop n }
  | 'S' :: [] => .error .tooShort
  | _ => .error .noRecordMark

/-- The loader's bus write: as the CPU's, but untranslated and accepted by ROM; an address nothing answers takes nothing
(R310, `90_conflicts.md` C6). -/
def loaderWrite (a : Nat) (v : Word) (s : State) : State :=
  match answering s.cfg.parallelVariant a with
  | some (.rom, offset) => { s with mem := s.mem.writeWord (romBase + offset) v }
  | some (d, offset) => s.deviceStore d offset v
  | none => s

/-- Words written one after the other from an address on (R310; log entry 19). -/
def loaderWrites : Nat → List Word → State → State
  | _, [], s => s
  | a, w :: ws, s => loaderWrites (a + 1) ws (loaderWrite a w s)

/-- What a record does, with the number of words it loads: type 3 writes its words, type 7 sets `pc`, the others do nothing
(R310, R311). -/
def applyRecord (r : Record) (s : State) : Nat × State :=
  if r.type = '3' then
    match payloadWords r.payload with
    | some ws => (ws.length, loaderWrites r.address ws s)
    | none => (0, s)
  else if r.type = '7' then (0, { s with pc := a20 (BitVec.ofNat 32 r.address) })
  else (0, s)

/-- What a load reports: the words loaded and, if it stopped, why; with the state it leaves (R310, R312). -/
structure LoadResult where
  words : Nat
  error : Option LoadError
  state : State
deriving DecidableEq, Repr

/-- The lines of a text; a carriage return or a line feed ends one (R312, log entry 20). -/
def splitLines : List Char → List (List Char)
  | [] => [[]]
  | c :: rest =>
    if c = '\n' ∨ c = '\r' then [] :: splitLines rest
    else
      match splitLines rest with
      | [] => [[c]]
      | line :: lines => (c :: line) :: lines

/-- The records of a load in order; it stops at the first bad one, whose record and successors have no effect (R312). Empty
lines are skipped. -/
def loadLines : List (List Char) → Nat → State → LoadResult
  | [], n, s => { words := n, error := none, state := s }
  | [] :: lines, n, s => loadLines lines n s
  | line :: lines, n, s =>
    match parseRecord line with
    | .error e => { words := n, error := some e, state := s }
    | .ok r => loadLines lines (n + (applyRecord r s).1) (applyRecord r s).2

/-- `LoadSrec(text)` (R310). Afterwards `is_write` is 0 and the bus latches hold the configuration's words (log entry 15). -/
def loadSrec (text : List Char) (s : State) : LoadResult :=
  let r := loadLines (splitLines text) 0 s
  { r with
    state := { r.state with isWrite := false, abus := zext20 r.state.cfg.loadAbus, dbus := r.state.cfg.loadDbus } }

end Sys2Proof.Machine
end

