-- ==== Sys2Proof/Machine/HostRun.lean ====
section
/-! DEFINITION. The host's operations that run ticks (R316, R288), and all of the host's inputs as one type (R330). -/

namespace Sys2Proof.Machine

/-- Ticks of the board, one after the other (R315). -/
def runTicks : Nat → State → Host.Outcome State Fault Refusal
  | 0, s => .next s
  | n + 1, s =>
    match step s with
    | .next t => runTicks n t
    | .fault f => .fault f
    | .refused r => .refused r

/-- The helper that steps one instruction: it ticks until a tick returns true, which is the first tick after the rest of the
countdown (R316, R320). -/
def stepInstruction (s : State) : Host.Outcome State Fault Refusal := runTicks (s.countdown + 1) s

/-- `Send(P, b)`: the host ticks the board until the port is ready and then starts the reception (R288). It gives up after
`patience` ticks, where R288 sets no bound (log entry 21). -/
def send : Nat → Port → Byte → State → Host.Outcome (Bool × State) Fault Refusal
  | 0, p, b, s => .next (trySend p b s)
  | n + 1, p, b, s =>
    if (s.serial p).ready then .next (trySend p b s)
    else
      match step s with
      | .next t => send n p b t
      | .fault f => .fault f
      | .refused r => .refused r

/-- What the outside world can do to the machine between two ticks, in one tick-free action (R330). -/
inductive HostAction where
  | reset (keepMemory : Bool)
  | load (text : List Char)
  | press
  | release
  | setSwitches (v : Word)
  | setButtons (v : Word)
  | trySend (p : Port) (b : Byte)
  | clearDisplayChanged
  | disassemble (a : Addr)
deriving DecidableEq, Repr

/-- The state after a host action (R330). -/
def hostAct (a : HostAction) (s : State) : State :=
  match a with
  | .reset keepMemory => boardReset keepMemory s
  | .load text => (loadSrec text s).state
  | .press => pressButton s
  | .release => releaseButton s
  | .setSwitches v => setSwitches v s
  | .setButtons v => setButtons v s
  | .trySend p b => (trySend p b s).2
  | .clearDisplayChanged => clearDisplayChanged s
  | .disassemble a => (disassemble a s).2

end Sys2Proof.Machine
end

