-- ==== Sys2Proof/Safety.lean ====
section
/-! DEFINITION. The words the statements are made of: what stays the same (the frames), what an instruction does, when it is
abandoned, which addresses user mode may reach, and the invariant of the machine. -/

namespace Sys2Proof.Machine

/-- Every general register reads as before. -/
def SameRegs (s t : State) : Prop := ∀ r, t.reg r = s.reg r

/-- Every special register reads as before. -/
def SameSpecials (s t : State) : Prop := ∀ k, t.sreg k = s.sreg k

/-- Every special register reads as before, but `icount` counts one instruction more (R323). -/
def Counted (s t : State) : Prop :=
  ∀ k, t.sreg k = if k = icountSlot then s.sreg icountSlot + 1#32 else s.sreg k

/-- Every byte of RAM and ROM reads as before. -/
def SameMemory (s t : State) : Prop := ∀ key, t.mem.readByte key = s.mem.readByte key

/-- Every device's words and counters are as before. -/
def SameDevices (s t : State) : Prop :=
  t.timer = s.timer ∧ t.serial1 = s.serial1 ∧ t.serial2 = s.serial2 ∧ t.parallel = s.parallel ∧ t.button = s.button

/-- The three bus latches are as before. -/
def SameBuses (s t : State) : Prop := t.abus = s.abus ∧ t.isWrite = s.isWrite ∧ t.dbus = s.dbus

/-- The instruction latch, the countdown, the board's counter and outputs, and the parameters are as before. -/
def SameSequencer (s t : State) : Prop :=
  t.ir = s.ir ∧ t.countdown = s.countdown ∧ t.ticks = s.ticks ∧ t.completed = s.completed ∧ t.sent = s.sent ∧ t.cfg = s.cfg

/-- Everything outside the register files, `pc` and the accumulator is as before. -/
def SameBoard (s t : State) : Prop :=
  SameMemory s t ∧ SameDevices s t ∧ SameBuses s t ∧ SameSequencer s t

/-- The general register `rd` gets `v`, or nothing does when it is `x[0]`; every other one reads as before (R21). -/
def RegWritten (rd : Reg) (v : Word) (s t : State) : Prop :=
  ∀ r, t.reg r = if r = rd ∧ r ≠ 0#4 then v else s.reg r

/-- The whole effect of an instruction whose one result goes to `rd`. -/
def WritesRegister (rd : Reg) (v : Word) (s t : State) : Prop :=
  RegWritten rd v s t ∧ Counted s t ∧ t.pc = s.pc ∧ t.status = s.status ∧ SameBoard s t

/-- The whole effect of an instruction abandoned without an access: its cause is set in the accumulator (R12, R322). -/
def OnlyRaises (bit : BitVec 16) (s t : State) : Prop :=
  t.status = s.status ||| bit ∧ SameRegs s t ∧ SameSpecials s t ∧ t.pc = s.pc ∧ SameBoard s t

/-- `exec` answers a next state of which the relation holds. -/
def ExecutesTo (i : Instr) (s : State) (post : State → State → Prop) : Prop :=
  ∃ t, exec i s = .next t ∧ post s t

/-- An instruction with one result: it writes it to `rd`, or faults with ARITH and does nothing else (R131, R133). -/
def ResultOrArith (i : Instr) (rd : Reg) (faults : Prop) (v : Word) (s : State) : Prop :=
  (¬ faults → ExecutesTo i s (WritesRegister rd v)) ∧ (faults → ExecutesTo i s (OnlyRaises arithBit))

/-- The logical address's physical address (R75). -/
def physicalAddress (la : Addr) (s : State) : Addr := if s.kernelMode then la else relocate la s

/-- The physical address's page bit in the protection table is 1 (R76). -/
def pagePermitted (pa : Addr) (s : State) : Bool :=
  (s.busWord (tableAddress pa s).toNat).getLsbD (tableBit pa)

/-- An access to the logical address succeeds: kernel mode, or the page of its relocated address is permitted (R75). -/
def accessPermitted (la : Addr) (s : State) : Bool :=
  s.kernelMode || pagePermitted (relocate la s) s

/-- The state after the protection table read of an access, which kernel mode does not make (R75, R214). -/
def afterTableRead (la : Addr) (s : State) : State :=
  if s.kernelMode then s else (physRead (tableAddress (relocate la s) s) s).2

/-- The table word that governs the physical address lies in RAM or ROM. -/
def tableInMemory (pa : Addr) (s : State) : Bool :=
  match answering s.cfg.parallelVariant (tableAddress pa s).toNat with
  | some (.ram, _) => true
  | some (.rom, _) => true
  | _ => false

/-- What a read transaction does to the devices: reading `rx` clears the data-ready bit of its port, nothing else changes
(R72). -/
def ReadDevices (pa : Addr) (s t : State) : Prop :=
  t.serial1 = (if pa = 0x70001#20 then { s.serial1 with status := s.serial1.status &&& ~~~1#32 } else s.serial1) ∧
  t.serial2 = (if pa = 0x71001#20 then { s.serial2 with status := s.serial2.status &&& ~~~1#32 } else s.serial2) ∧
  t.timer = s.timer ∧ t.parallel = s.parallel ∧ t.button = s.button

/-- A read touches nothing but the bus latches and the data-ready bit of the port whose `rx` is read (R70, R72). -/
def ReadTouches (pa : Addr) (s t : State) : Prop :=
  ReadDevices pa s t ∧ SameMemory s t ∧ SameSequencer s t ∧ SameRegs s t ∧ SameSpecials s t ∧ t.pc = s.pc ∧
  t.status = s.status

/-- The bus latches after a read transaction that returned `v` (R70). -/
def DrivenByRead (pa : Addr) (v : Word) (t : State) : Prop := t.abus = zext20 pa ∧ t.isWrite = false ∧ t.dbus = v

/-- The whole effect of a jump or a branch that links nothing: `pc` and `icount` (R200). -/
def TransfersTo (target : Addr) (s t : State) : Prop :=
  t.pc = target ∧ SameRegs s t ∧ Counted s t ∧ t.status = s.status ∧ SameBoard s t

/-- The whole effect of a jump that links: `x[15]` gets the address after the instruction (R203, R204). -/
def LinksAndTransfersTo (target : Addr) (s t : State) : Prop :=
  t.pc = target ∧ RegWritten 15#4 (zext20 s.pc) s t ∧ Counted s t ∧ t.status = s.status ∧ SameBoard s t

/-- The whole effect of an access the MPU refuses: GPF is raised, and the table read has touched what it touches; the buses
hold that read, so the refused address never reaches them (R211, R212, R75, R77). -/
def RefusedAccess (la : Addr) (s t : State) : Prop :=
  t.status = s.status ||| gpfBit ∧ SameRegs s t ∧ SameSpecials s t ∧ t.pc = s.pc ∧ SameMemory s t ∧ SameSequencer s t ∧
  ReadDevices (tableAddress (relocate la s) s) s t ∧
  DrivenByRead (tableAddress (relocate la s) s) (s.busWord (tableAddress (relocate la s) s).toNat) t

/-- The instruction that the next tick issues: none while the CPU counts, when the fetch is refused, and when the word
fetched selects none (R320, R321, R225). -/
def State.issued (s : State) : Option Instr :=
  if 0 < s.countdown then none
  else
    match fetch (atFetch s) with
    | .denied _ => none
    | .done _ t =>
      match decode t.ir with
      | .error _ => none
      | .ok i => some i

/-- The ALU operation of an instruction, with its operands, where it has one (R131, R132, R170, R171). -/
def aluOperation (i : Instr) (s : State) : Option (AluFn × Word × Word) :=
  match i with
  | .add _ rs rt => some (.add, s.reg rs, s.reg rt)
  | .addu _ rs rt => some (.addu, s.reg rs, s.reg rt)
  | .sub _ rs rt => some (.sub, s.reg rs, s.reg rt)
  | .subu _ rs rt => some (.subu, s.reg rs, s.reg rt)
  | .mult _ rs rt => some (.mult, s.reg rs, s.reg rt)
  | .multu _ rs rt => some (.multu, s.reg rs, s.reg rt)
  | .div _ rs rt => some (.div, s.reg rs, s.reg rt)
  | .divu _ rs rt => some (.divu, s.reg rs, s.reg rt)
  | .rem _ rs rt => some (.rem, s.reg rs, s.reg rt)
  | .remu _ rs rt => some (.remu, s.reg rs, s.reg rt)
  | .sll _ rs rt => some (.sll, s.reg rs, s.reg rt)
  | .and _ rs rt => some (.and, s.reg rs, s.reg rt)
  | .srl _ rs rt => some (.srl, s.reg rs, s.reg rt)
  | .or _ rs rt => some (.or, s.reg rs, s.reg rt)
  | .sra _ rs rt => some (.sra, s.reg rs, s.reg rt)
  | .xor _ rs rt => some (.xor, s.reg rs, s.reg rt)
  | .addi _ rs imm => some (.add, s.reg rs, immediateOperand (AluFn.code .add) imm)
  | .addui _ rs imm => some (.addu, s.reg rs, immediateOperand (AluFn.code .addu) imm)
  | .subi _ rs imm => some (.sub, s.reg rs, immediateOperand (AluFn.code .sub) imm)
  | .subui _ rs imm => some (.subu, s.reg rs, immediateOperand (AluFn.code .subu) imm)
  | .multi _ rs imm => some (.mult, s.reg rs, immediateOperand (AluFn.code .mult) imm)
  | .multui _ rs imm => some (.multu, s.reg rs, immediateOperand (AluFn.code .multu) imm)
  | .divi _ rs imm => some (.div, s.reg rs, immediateOperand (AluFn.code .div) imm)
  | .divui _ rs imm => some (.divu, s.reg rs, immediateOperand (AluFn.code .divu) imm)
  | .remi _ rs imm => some (.rem, s.reg rs, immediateOperand (AluFn.code .rem) imm)
  | .remui _ rs imm => some (.remu, s.reg rs, immediateOperand (AluFn.code .remu) imm)
  | .slli _ rs imm => some (.sll, s.reg rs, immediateOperand (AluFn.code .sll) imm)
  | .andi _ rs imm => some (.and, s.reg rs, immediateOperand (AluFn.code .and) imm)
  | .srli _ rs imm => some (.srl, s.reg rs, immediateOperand (AluFn.code .srl) imm)
  | .ori _ rs imm => some (.or, s.reg rs, immediateOperand (AluFn.code .or) imm)
  | .srai _ rs imm => some (.sra, s.reg rs, immediateOperand (AluFn.code .sra) imm)
  | .xori _ rs imm => some (.xor, s.reg rs, immediateOperand (AluFn.code .xor) imm)
  | .slt _ rs rt => some (.slt, s.reg rs, s.reg rt)
  | .sltu _ rs rt => some (.sltu, s.reg rs, s.reg rt)
  | .sgt _ rs rt => some (.sgt, s.reg rs, s.reg rt)
  | .sgtu _ rs rt => some (.sgtu, s.reg rs, s.reg rt)
  | .sle _ rs rt => some (.sle, s.reg rs, s.reg rt)
  | .sleu _ rs rt => some (.sleu, s.reg rs, s.reg rt)
  | .sge _ rs rt => some (.sge, s.reg rs, s.reg rt)
  | .sgeu _ rs rt => some (.sgeu, s.reg rs, s.reg rt)
  | .seq _ rs rt => some (.seq, s.reg rs, s.reg rt)
  | .sequ _ rs rt => some (.sequ, s.reg rs, s.reg rt)
  | .sne _ rs rt => some (.sne, s.reg rs, s.reg rt)
  | .sneu _ rs rt => some (.sneu, s.reg rs, s.reg rt)
  | .brk => none
  | .syscall => none
  | .rfe => none
  | .slti _ rs imm => some (.slt, s.reg rs, immediateOperand (AluFn.code .slt) imm)
  | .sltui _ rs imm => some (.sltu, s.reg rs, immediateOperand (AluFn.code .sltu) imm)
  | .sgti _ rs imm => some (.sgt, s.reg rs, immediateOperand (AluFn.code .sgt) imm)
  | .sgtui _ rs imm => some (.sgtu, s.reg rs, immediateOperand (AluFn.code .sgtu) imm)
  | .slei _ rs imm => some (.sle, s.reg rs, immediateOperand (AluFn.code .sle) imm)
  | .sleui _ rs imm => some (.sleu, s.reg rs, immediateOperand (AluFn.code .sleu) imm)
  | .sgei _ rs imm => some (.sge, s.reg rs, immediateOperand (AluFn.code .sge) imm)
  | .sgeui _ rs imm => some (.sgeu, s.reg rs, immediateOperand (AluFn.code .sgeu) imm)
  | .seqi _ rs imm => some (.seq, s.reg rs, immediateOperand (AluFn.code .seq) imm)
  | .sequi _ rs imm => some (.sequ, s.reg rs, immediateOperand (AluFn.code .sequ) imm)
  | .snei _ rs imm => some (.sne, s.reg rs, immediateOperand (AluFn.code .sne) imm)
  | .sneui _ rs imm => some (.sneu, s.reg rs, immediateOperand (AluFn.code .sneu) imm)
  | .movgs _ _ => none
  | .movsg _ _ => none
  | .lhi _ imm => some (.lhi, 0#32, immediateOperand (AluFn.code .lhi) imm)
  | .j _ => none
  | .jr _ => none
  | .jal _ => none
  | .jalr _ => none
  | .lw _ _ _ => none
  | .sw _ _ _ => none
  | .beqz _ _ => none
  | .bnez _ _ => none
  | .la _ _ => none

/-- The instruction is abandoned: its ALU operation faults, it is privileged and user mode runs it, or the MPU refuses its
access (R231, R232, R323). -/
def abandoned (i : Instr) (s : State) : Bool :=
  match i with
  | .movgs _ _ => !s.kernelMode
  | .movsg _ _ => !s.kernelMode
  | .rfe => s.cfg.rfePrivileged && !s.kernelMode
  | .lw _ rs offset => !accessPermitted (effectiveAddress rs offset s) s
  | .sw _ rs offset => !accessPermitted (effectiveAddress rs offset s) s
  | i =>
    match aluOperation i s with
    | some (f, a, b) => (alu f a b).isNone
    | none => false

/-- The invariant of the machine: the parameters are legal (R7), `x[0]` is 0 (R21), memory is in canonical form, bits 3:0 of
the accumulator are 0 (R40), the address bus holds a 20-bit address (R61) and the prescaler is below the divisor (R48). -/
structure State.Inv (s : State) : Prop where
  cfgLegal : s.cfg.wf = true
  zeroReg : s.gpr[0] = 0#32
  memCanonical : s.mem.wf
  statusLow : s.status &&& 0x000F#16 = 0#16
  abusAddress : s.abus.toNat < 2 ^ 20
  prescaleBelow : s.timer.prescale < s.cfg.timerDiv

end Sys2Proof.Machine
end

