-- ==== Sys2Proof/Certificates/Slice0/Obligations.lean ====
section
/-! DEFINITION. The statements for the provers. Each docstring names the rules of spec/ a statement rests on, and, where it
rests on a decision or on something the spec took from outside its source, the log entry. What underlies many of them is
said here once: a statement that names an instruction's word rests on log entry 8, one that names a mode or a bit of `cctrl`
on log entry 9, one that names a device's offset or bit on log entry 11. Every statement is over every state, whatever its
configuration, unless it says otherwise. -/

section Slice0Statements

open Sys2Proof Sys2Proof.Machine

/-! ### Encoding -/

/-- Decoding the encoding of an instruction gives the instruction back, whatever its operands (R101 to R110, R116; the
numbers are those of log entry 8). -/
def Obligations.DecodeOfEncodeIsIdentity : Prop := ∀ i : Instr, decode (encode i) = .ok i

/-- Exactly the words of opcodes 0xD to 0xF, and of function code 0x1F under opcodes 2 and 3, select no instruction, each
refused by its name, and the word check agrees with the decoder (R110, R111, R112; log entry 8). -/
def Obligations.UndefinedWordsAreRefusedByName : Prop :=
  ∀ w : Word,
    (decode w = .error (.opcode (opField w)) ↔ 13 ≤ w.toNat / 2 ^ 28) ∧
    (decode w = .error (.function (opField w)) ↔
      (w.toNat / 2 ^ 28 = 2 ∨ w.toNat / 2 ^ 28 = 3) ∧ w.toNat / 2 ^ 16 % 16 = 15) ∧
    (wellFormedWord w = true ↔ ∃ i, decode w = .ok i)

/-- Any value in the ignored bits of a word leaves what the word decodes to as it is (R113; log entry 23). -/
def Obligations.IgnoredBitsAreNeverRead : Prop :=
  ∀ w m : Word, m &&& ignoredBits w = m → decode (w ^^^ m) = decode w

/-- The encoding of what a word decodes to is the word with its ignored bits 0 (R113; log entry 23). -/
def Obligations.EncodeOfDecodeClearsIgnoredBits : Prop :=
  ∀ (w : Word) (i : Instr), decode w = .ok i → encode i = w &&& ~~~ignoredBits w

/-- Words written out in the examples of the instruction rules, one or more of every layout, decode to the instructions they
stand for (R136, R137, R172, R201, R202, R205, R211, R212, R213, R220, R223, R224; log entry 8). -/
def Obligations.ExampleWordsDecode : Prop :=
  decode 0x03100002#32 = .ok (.add 3#4 1#4 2#4) ∧
  decode 0x1310FFFF#32 = .ok (.addi 3#4 1#4 0xFFFF#16) ∧
  decode 0x23100002#32 = .ok (.slt 3#4 1#4 2#4) ∧
  decode 0x40080010#32 = .ok (.j 0x80010#20) ∧
  decode 0x50F00000#32 = .ok (.jr 15#4) ∧
  decode 0xA0100003#32 = .ok (.beqz 1#4 3#20) ∧
  decode 0x83000010#32 = .ok (.lw 3#4 0#4 0x10#20) ∧
  decode 0x92000010#32 = .ok (.sw 2#4 0#4 0x10#20) ∧
  decode 0xC1000005#32 = .ok (.la 1#4 5#20) ∧
  decode 0x200C0000#32 = .ok .brk ∧
  decode 0x341C0000#32 = .ok (.movgs 4#4 1#4) ∧
  decode 0x325D0000#32 = .ok (.movsg 2#4 5#4)

/-! ### The tick -/

/-- A step runs the decoded instruction: in a tick that begins at a boundary, when the word at `pc` decodes to `i`, the step
executes `i` in the state in which the latch holds the word, `pc` has moved past it, the countdown holds what is left of the
ticks of the instruction's class, one more for a branch that is taken, and nothing else has changed but the buses and what
the two reads touch; the device clock steps follow (R315, R320, R321, R325; log entries 6 and 24). -/
def Obligations.StepRunsDecodedInstruction : Prop :=
  ∀ (s : State) (i : Instr),
    let b := atFetch s
    let m := afterTableRead b.pc b
    let pa := physicalAddress b.pc b
    let w := m.busWord pa.toNat
    let classTicks : Nat :=
      match i with
      | .mult _ _ _ | .multu _ _ _ | .div _ _ _ | .divu _ _ _ | .rem _ _ _ | .remu _ _ _
      | .multi _ _ _ | .multui _ _ _ | .divi _ _ _ | .divui _ _ _ | .remi _ _ _ | .remui _ _ _ => b.cfg.ticks.muldiv
      | .j _ | .jr _ | .jal _ | .jalr _ => b.cfg.ticks.jump
      | .beqz rs _ => b.cfg.ticks.branch + (if b.reg rs = 0#32 then 1 else 0)
      | .bnez rs _ => b.cfg.ticks.branch + (if b.reg rs = 0#32 then 0 else 1)
      | .lw _ _ _ => b.cfg.ticks.load
      | .sw _ _ _ => b.cfg.ticks.store
      | .la _ _ => b.cfg.ticks.la
      | .brk | .syscall | .rfe | .movgs _ _ | .movsg _ _ => b.cfg.ticks.system
      | _ => b.cfg.ticks.alu
    s.countdown = 0 → accessPermitted b.pc b = true → decode w = .ok i →
    ∃ t, t.ir = w ∧ t.pc = b.pc + 1#20 ∧ t.countdown = classTicks - 1 ∧ t.status = b.status ∧ SameRegs b t ∧
      SameSpecials b t ∧ SameMemory b t ∧ ReadDevices pa m t ∧ DrivenByRead pa w t ∧ t.ticks = b.ticks ∧ t.cfg = b.cfg ∧
      t.completed = b.completed ∧ t.sent = b.sent ∧
      step s =
        match exec i t with
        | .next u => .next (finishTick true u)
        | .fault f => .fault f
        | .refused r => .refused r

/-- A tick in which the countdown runs: `ticks` and `ccount` advance, the countdown falls by one, the devices take their
clock steps, and nothing else changes (R315, R316, R320). -/
def Obligations.CountingTickOnlyCounts : Prop :=
  ∀ s : State, 0 < s.countdown →
    ∃ t, step s = .next t ∧ t.countdown = s.countdown - 1 ∧ t.ticks = s.ticks + 1 ∧ t.completed = false ∧
      (∀ k, t.sreg k = if k = ccountSlot then s.sreg ccountSlot + 1#32 else s.sreg k) ∧
      SameRegs s t ∧ t.pc = s.pc ∧ t.status = s.status ∧ t.ir = s.ir ∧ t.cfg = s.cfg ∧ SameBuses s t ∧ SameMemory s t ∧
      t.parallel = s.parallel ∧ t.button = s.button ∧ t.timer = s.timer.tick s.cfg.timerDiv ∧
      t.serial1 = s.serial1.tick.1 ∧ t.serial2 = s.serial2.tick.1 ∧
      t.sent = txEvents .one s.serial1.tick.2 ++ txEvents .two s.serial2.tick.2

/-- Every tick ends in a next state: nothing stops the machine (R329). -/
def Obligations.EveryTickEndsInANextState : Prop := ∀ s : State, ∃ t, step s = .next t

/-- A fetched word that selects no instruction raises GPF and does nothing else beyond its fetch; it occupies the ticks of its
class and does not count in `icount` (R225, R322; log entry 25). -/
def Obligations.UndefinedWordRaisesGpf : Prop :=
  ∀ (s : State) (e : Undefined),
    let b := atFetch s
    let m := afterTableRead b.pc b
    let pa := physicalAddress b.pc b
    let w := m.busWord pa.toNat
    s.countdown = 0 → accessPermitted b.pc b = true → decode w = .error e →
    ∃ t, step s = .next (finishTick true t) ∧ t.status = b.status ||| 0x1000#16 ∧ t.ir = w ∧ t.pc = b.pc + 1#20 ∧
      t.countdown = b.cfg.ticks.system - 1 ∧ SameRegs b t ∧ SameSpecials b t ∧ SameMemory b t ∧ ReadDevices pa m t ∧
      DrivenByRead pa w t ∧ t.ticks = b.ticks ∧ t.cfg = b.cfg ∧ t.completed = b.completed ∧ t.sent = b.sent

/-- A fetch the MPU refuses: GPF is raised, `pc`, the latch and the countdown keep their values, no instruction counts, and
the tick still returns true; the buses hold the table read, never the refused address (R321, R75; log entry 25). -/
def Obligations.RefusedFetchRaisesGpf : Prop :=
  ∀ s : State,
    let b := atFetch s
    s.countdown = 0 → accessPermitted b.pc b = false →
    ∃ t, step s = .next (finishTick true t) ∧ RefusedAccess b.pc b t ∧ t.countdown = 0

/-- `ccount` advances by one in every tick, whether or not an instruction starts in it; a `movsg` reads it with this tick
counted, a `movgs` to it leaves the value written, and over `n` ticks without such a write it advances by `n` modulo 2^32
(R29). -/
def Obligations.CcountAdvancesEveryTick : Prop :=
  (∀ s t : State, step s = .next t →
    ((∀ rs, s.issued ≠ some (.movgs ccountSlot rs)) → t.sreg ccountSlot = s.sreg ccountSlot + 1#32) ∧
    (∀ rd, s.issued = some (.movsg rd ccountSlot) → (atFetch s).kernelMode = true → rd ≠ 0#4 →
      t.reg rd = s.sreg ccountSlot + 1#32) ∧
    (∀ rs, s.issued = some (.movgs ccountSlot rs) → (atFetch s).kernelMode = true → t.sreg ccountSlot = s.reg rs) ∧
    (∀ rs, s.issued = some (.movgs ccountSlot rs) → (atFetch s).kernelMode = false →
      t.sreg ccountSlot = s.sreg ccountSlot + 1#32)) ∧
  (∀ (n : Nat) (s u : State), runTicks n s = .next u →
    (∀ m, m < n → ∀ v, runTicks m s = .next v → ∀ rs, v.issued ≠ some (.movgs ccountSlot rs)) →
    u.sreg ccountSlot = s.sreg ccountSlot + BitVec.ofNat 32 n)

/-! ### Exceptions and interrupts -/

/-- The refresh at a boundary replaces bits 4 to 11 of the accumulator by the IRQ bus bits 0 to 7, keeps bits 12 to 15 and
changes nothing else (R236, R40; log entry 25). -/
def Obligations.RefreshReplacesExternalBits : Prop :=
  ∀ s : State,
    (∀ n, n < 16 → s.refreshStatus.status.getLsbD n =
      if n < 4 then false else if n < 12 then s.irq.getLsbD (n - 4) else s.status.getLsbD n) ∧
    SameRegs s s.refreshStatus ∧ SameSpecials s s.refreshStatus ∧ s.refreshStatus.pc = s.pc ∧ SameBoard s s.refreshStatus

/-- The IRQ bus: bit `n` is 1 exactly when the ack word of the device wired to it is not 0, and no other bit is ever 1 (R45,
R235, R251; log entry 12). -/
def Obligations.IrqLinesFollowAckWords : Prop :=
  ∀ (s : State) (n : Nat), n < 32 →
    s.irq.getLsbD n =
      (decide (n = 1) && s.button != 0#32 || decide (n = 2) && s.timer.iack != 0#32 ||
       decide (n = 3) && s.parallel.iack != 0#32 || decide (n = 4) && s.serial1.iack != 0#32 ||
       decide (n = 5) && s.serial2.iack != 0#32)

/-- A boundary takes one exception exactly when some cause is admitted: an internal cause always, an interrupt when `IE` and
its mask bit are 1; `estat` receives all admitted causes together (R237 to R241; the bit positions are those of log entry
9). -/
def Obligations.BoundaryTakesAdmittedCauses : Prop :=
  ∀ s : State,
    let u := boundaryCheck s
    let c := s.sreg cctrlSlot
    let admitted : Nat → Bool := fun n =>
      if n < 4 then false
      else if n < 12 then s.irq.getLsbD (n - 4) && c.getLsbD 1 && c.getLsbD n
      else s.status.getLsbD n
    ((∀ n, n < 16 → admitted n = false) →
      SameRegs s u ∧ SameSpecials s u ∧ u.pc = s.pc ∧ u.status = s.refreshStatus.status ∧ SameBoard s u) ∧
    ((∃ n, n < 16 ∧ admitted n = true) →
      u.pc = a20 (s.sreg evecSlot) ∧ u.status = 0#16 ∧
      (∀ n, n < 32 → (u.sreg estatSlot).getLsbD n = (decide (n < 16) && admitted n)) ∧
      u.sreg earSlot = zext20 s.pc ∧ u.sreg ersSlot = s.reg 13#4 ∧ u.kernelMode = true ∧ SameRegs s u ∧ SameBoard s u)

/-- Taking an exception, every effect: `cctrl` bit by bit, the three saved words, the vector, the accumulator, and that
nothing else changes (R241; log entry 9). -/
def Obligations.ExceptionEntrySavesAndRedirects : Prop :=
  ∀ (p : BitVec 16) (s : State),
    let u := exceptionEntry p s
    let c := s.sreg cctrlSlot
    (∀ n, n < 32 → (u.sreg cctrlSlot).getLsbD n =
      if n = 0 then c.getLsbD 1 else if n = 1 then false else if n = 2 then c.getLsbD 3
      else if n = 3 then true else c.getLsbD n) ∧
    u.sreg earSlot = BitVec.ofNat 32 s.pc.toNat ∧ u.sreg ersSlot = s.reg 13#4 ∧
    u.sreg estatSlot = BitVec.ofNat 32 p.toNat ∧
    (∀ k, k ≠ cctrlSlot → k ≠ earSlot → k ≠ ersSlot → k ≠ estatSlot → u.sreg k = s.sreg k) ∧
    u.pc = BitVec.ofNat 20 (s.sreg evecSlot).toNat ∧ u.status = 0#16 ∧ SameRegs s u ∧ SameBoard s u

/-- `rfe`, in kernel mode always and in user mode unless the configuration makes it privileged: the flags, `x[13]` and `pc`
are restored, `icount` counts, nothing else changes (R222, R243; log entry 9). -/
def Obligations.RfeReturnsFromException : Prop :=
  ∀ s : State, (s.kernelMode = true ∨ s.cfg.rfePrivileged = false) →
    let c := s.sreg cctrlSlot
    ExecutesTo .rfe s (fun s t =>
      (∀ n, n < 32 → (t.sreg cctrlSlot).getLsbD n =
        if n = 1 then c.getLsbD 0 else if n = 3 then c.getLsbD 2 else c.getLsbD n) ∧
      t.sreg icountSlot = s.sreg icountSlot + 1#32 ∧
      (∀ k, k ≠ cctrlSlot → k ≠ icountSlot → t.sreg k = s.sreg k) ∧
      (∀ r, t.reg r = if r = 13#4 then s.sreg ersSlot else s.reg r) ∧
      t.pc = BitVec.ofNat 20 (s.sreg earSlot).toNat ∧ t.status = s.status ∧ SameBoard s t)

/-- An exception taken and returned from at once, whatever its cause: `pc`, every general register and both flags are as
before, `estat` keeps the cause (R241, R243). -/
def Obligations.EntryThenRfeRestores : Prop :=
  ∀ (p : BitVec 16) (s : State),
    let c := s.sreg cctrlSlot
    ExecutesTo .rfe (exceptionEntry p s) (fun _ t =>
      t.pc = s.pc ∧ SameRegs s t ∧ t.status = 0#16 ∧
      (∀ n, n < 32 → (t.sreg cctrlSlot).getLsbD n =
        if n = 0 then c.getLsbD 1 else if n = 2 then c.getLsbD 3 else c.getLsbD n) ∧
      t.sreg estatSlot = BitVec.ofNat 32 p.toNat ∧
      (∀ k, k ≠ cctrlSlot → k ≠ estatSlot → k ≠ earSlot → k ≠ ersSlot → k ≠ icountSlot → t.sreg k = s.sreg k) ∧
      SameBoard s t)

/-- `break` and `syscall`: the cause's bit is set, the instruction counts, nothing else changes, in either mode (R220, R221,
R323). -/
def Obligations.BreakAndSyscallRaiseTheirCause : Prop :=
  ∀ s : State,
    ExecutesTo .brk s (fun s t =>
      t.status = s.status ||| 0x4000#16 ∧ SameRegs s t ∧ Counted s t ∧ t.pc = s.pc ∧ SameBoard s t) ∧
    ExecutesTo .syscall s (fun s t =>
      t.status = s.status ||| 0x2000#16 ∧ SameRegs s t ∧ Counted s t ∧ t.pc = s.pc ∧ SameBoard s t)

/-! ### Privilege -/

/-- `movgs` and `movsg` in kernel mode: the whole word goes to the named special or general register; `movgs` to `icount` is
itself counted, `movsg` from `icount` reads the count before itself, and `movsg` to `x[0]` writes nothing (R223, R224, R24,
R21, R323). -/
def Obligations.SpecialMovesInKernelMode : Prop :=
  ∀ (k r : BitVec 4) (s : State), s.kernelMode = true →
    ExecutesTo (.movgs k r) s (fun s t =>
      (∀ j, t.sreg j =
        (if j = k then s.reg r else s.sreg j) + (if j = icountSlot then 1#32 else 0#32)) ∧
      SameRegs s t ∧ t.pc = s.pc ∧ t.status = s.status ∧ SameBoard s t) ∧
    ExecutesTo (.movsg r k) s (WritesRegister r (s.sreg k))

/-- In user mode `movgs` and `movsg`, and `rfe` where the configuration makes it privileged, raise GPF and do nothing else
(R223, R224, R222, R226, R231). -/
def Obligations.PrivilegedInstructionsTrapInUserMode : Prop :=
  ∀ (k r : BitVec 4) (s : State), s.kernelMode = false →
    ExecutesTo (.movgs k r) s (OnlyRaises 0x1000#16) ∧ ExecutesTo (.movsg r k) s (OnlyRaises 0x1000#16) ∧
    (s.cfg.rfePrivileged = true → ExecutesTo .rfe s (OnlyRaises 0x1000#16))

/-- The complete list of what changes the mode: exception entry to kernel, `rfe` to the mode in `OKU`, `movgs` to `cctrl`
from kernel mode to the mode in bit 3 of the written value, reset to kernel; no other instruction, tick or host action does
(R247; log entry 9). The new mode governs the very next fetch: in kernel mode it is not translated, in user mode it is
relocated and checked. -/
def Obligations.ModeChangesCompleteList : Prop :=
  (∀ p s, (exceptionEntry p s).kernelMode = true) ∧
  (∀ s t, exec .rfe s = .next t → abandoned .rfe s = false → t.kernelMode = (s.sreg cctrlSlot).getLsbD 2) ∧
  (∀ rs s t, exec (.movgs cctrlSlot rs) s = .next t →
    t.kernelMode = if s.kernelMode then (s.reg rs).getLsbD 3 else false) ∧
  (∀ keep s, (boardReset keep s).kernelMode = true) ∧
  (∀ i s t, exec i s = .next t → (i ≠ .rfe ∨ abandoned i s = true) → (∀ rs, i ≠ .movgs cctrlSlot rs) →
    t.kernelMode = s.kernelMode) ∧
  (∀ s t, step s = .next t → t.kernelMode ≠ s.kernelMode →
    (s.countdown = 0 ∧ admittedCauses (beginTick s) ≠ 0#16) ∨ s.issued = some .rfe ∨
    ∃ rs, s.issued = some (.movgs cctrlSlot rs)) ∧
  (∀ a s, (∀ keep, a ≠ .reset keep) → (hostAct a s).kernelMode = s.kernelMode) ∧
  (∀ s, s.kernelMode = true → accessPermitted s.pc s = true ∧
    fetch s = .done () { (physRead s.pc s).2 with ir := (physRead s.pc s).1, pc := s.pc + 1#20 }) ∧
  (∀ s, s.kernelMode = false →
    let table := physRead (tableAddress (relocate s.pc s) s) s
    let read := physRead (relocate s.pc s) table.2
    (table.1.getLsbD (tableBit (relocate s.pc s)) = true →
      fetch s = .done () { read.2 with ir := read.1, pc := s.pc + 1#20 }) ∧
    (table.1.getLsbD (tableBit (relocate s.pc s)) = false → fetch s = .denied (table.2.raise gpfBit)))

/-- In user mode no instruction but `rfe` changes a special register other than `icount`, and where `rfe` is privileged it
does not either (R36, R226, R248). -/
def Obligations.UserModeKeepsSpecialRegisters : Prop :=
  ∀ (i : Instr) (s t : State), s.kernelMode = false → (i ≠ .rfe ∨ s.cfg.rfePrivileged = true) → exec i s = .next t →
    ∀ k, k ≠ icountSlot → t.sreg k = s.sreg k

/-- An instruction is either abandoned or counted: an abandoned one changes no register of either file, no memory and not
`pc`, and sets exactly its own bit of the accumulator; every other one adds one to `icount`, after a `movgs` to it has
written (R12, R322, R323; log entry 25). -/
def Obligations.AbandonedOrCounted : Prop :=
  ∀ (i : Instr) (s t : State), exec i s = .next t →
    (abandoned i s = true →
      SameRegs s t ∧ SameSpecials s t ∧ SameMemory s t ∧ t.pc = s.pc ∧
      t.status = s.status ||| (if (aluOperation i s).isSome then 0x8000#16 else 0x1000#16)) ∧
    (abandoned i s = false → (∀ rs, i ≠ .movgs icountSlot rs) → t.sreg icountSlot = s.sreg icountSlot + 1#32) ∧
    (∀ rs, i = .movgs icountSlot rs → abandoned i s = false → t.sreg icountSlot = s.reg rs + 1#32)

/-! ### Memory and the bus -/

/-- The address map: the word a bus read returns at every 20-bit address, register by register of every device, and the stale
data bus where nothing answers; the buses hold that read (R65, R67, R70, R255, R265, R277, R284, R285; the offsets are those
of log entry 11). -/
def Obligations.AddressMapAnswers : Prop :=
  ∀ (s : State) (pa : Addr),
    let a := pa.toNat
    let word : Word :=
      if a < 0x20000 then s.mem.readWord a
      else if a = 0x70000 then s.serial1.tx
      else if a = 0x70001 then s.serial1.rx
      else if a = 0x70002 then s.serial1.control
      else if a = 0x70003 then s.serial1.status
      else if a = 0x70004 then s.serial1.iack
      else if a = 0x71000 then s.serial2.tx
      else if a = 0x71001 then s.serial2.rx
      else if a = 0x71002 then s.serial2.control
      else if a = 0x71003 then s.serial2.status
      else if a = 0x71004 then s.serial2.iack
      else if a = 0x72000 then s.timer.control
      else if a = 0x72001 then s.timer.load
      else if a = 0x72002 then s.timer.count
      else if a = 0x72003 then s.timer.iack
      else if a = 0x73000 then s.parallel.switches
      else if a = 0x73001 then s.parallel.buttons
      else if a = 0x73002 then s.parallel.ssdLeft
      else if a = 0x73003 then s.parallel.ssdRight
      else if a = 0x73004 then s.parallel.control
      else if a = 0x73005 then s.parallel.iack
      else if a = 0x73006 ∧ s.cfg.parallelVariant = .elevenWords then s.parallel.ssdUpperLeft
      else if a = 0x73007 ∧ s.cfg.parallelVariant = .elevenWords then s.parallel.ssdUpperRight
      else if a = 0x73008 ∧ s.cfg.parallelVariant = .elevenWords then s.parallel.ssdLowerLeft
      else if a = 0x73009 ∧ s.cfg.parallelVariant = .elevenWords then s.parallel.ssdLowerRight
      else if a = 0x7300A ∧ s.cfg.parallelVariant = .elevenWords then s.parallel.leds
      else if a = 0x7F000 then s.button
      else if 0x80000 ≤ a ∧ a < 0xC0000 then s.mem.readWord a
      else s.dbus
    (physRead pa s).1 = word ∧ s.busWord a = word ∧ DrivenByRead pa word (physRead pa s).2

/-- RAM has 0x20000 words, readable and writable: a read returns the word and changes nothing but the bus latches, a write
replaces that one word and nothing else but the bus latches, and what was written is read back (R68). -/
def Obligations.RamReadsBackWhatWasWritten : Prop :=
  ∀ (s : State) (pa : Addr) (v : Word), pa.toNat < 0x20000 → s.mem.wf →
    let r := physRead pa s
    let t := physWrite pa v s
    r.1 = s.mem.readWord pa.toNat ∧ SameMemory s r.2 ∧ SameDevices s r.2 ∧ SameRegs s r.2 ∧ SameSpecials s r.2 ∧
    SameSequencer s r.2 ∧ r.2.pc = s.pc ∧ r.2.status = s.status ∧
    t.mem.readWord pa.toNat = v ∧ (∀ a, a ≠ pa.toNat → t.mem.readWord a = s.mem.readWord a) ∧ SameDevices s t ∧
    SameRegs s t ∧ SameSpecials s t ∧ SameSequencer s t ∧ t.pc = s.pc ∧ t.status = s.status ∧ (physRead pa t).1 = v

/-- ROM has 0x40000 words, readable; a `sw` to it, in either mode, completes without any fault and changes no word of memory
and no device; the loader writes it; a reset never changes it (R69). -/
def Obligations.RomIgnoresStores : Prop :=
  ∀ (s : State) (a : Nat), 0x80000 ≤ a → a < 0xC0000 →
    (∀ pa : Addr, pa.toNat = a → (physRead pa s).1 = s.mem.readWord a) ∧
    (∀ rd rs offset,
      let ea := effectiveAddress rs offset s
      accessPermitted ea s = true → (physicalAddress ea s).toNat = a →
      ExecutesTo (.sw rd rs offset) s (fun s t =>
        SameMemory s t ∧ SameDevices (afterTableRead ea s) t ∧ SameRegs s t ∧ Counted s t ∧ t.status = s.status ∧
        t.pc = s.pc)) ∧
    (∀ v, s.mem.wf → (loaderWrite a v s).mem.readWord a = v) ∧
    (∀ keep, (boardReset keep s).mem.readWord a = s.mem.readWord a)

/-- An address nothing answers: a read changes nothing but the address bus and returns the stale data bus, a write changes
only the bus latches, neither raises anything, and a fetch executes the stale word (R67). -/
def Obligations.UnmappedAddressesReadTheStaleBus : Prop :=
  ∀ (s : State) (pa : Addr) (v : Word), answering s.cfg.parallelVariant pa.toNat = none →
    physRead pa s = (s.dbus, { s with isWrite := false, abus := zext20 pa }) ∧
    physWrite pa v s = { s with isWrite := true, abus := zext20 pa, dbus := v } ∧
    (s.kernelMode = true → s.pc = pa →
      fetch s = .done () { s with isWrite := false, abus := zext20 pa, ir := s.dbus, pc := pa + 1#20 })

/-- Exactly one register of each serial port has a read side effect, whatever caused the read, be it a load, a fetch or a
protection table lookup; the raw peek and the disassembler have none, and all the disassembler does to the machine is to
drive the address bus (R72, R43, R291; log entry 29). -/
def Obligations.OnlyRxHasAReadSideEffect : Prop :=
  (∀ pa s, ReadTouches pa s (physRead pa s).2) ∧
  (∀ rd rs offset s, s.kernelMode = true →
    ExecutesTo (.lw rd rs offset) s (ReadDevices (effectiveAddress rs offset s))) ∧
  (∀ s, s.kernelMode = true → ∃ t, fetch s = .done () t ∧ ReadDevices s.pc s t) ∧
  (∀ la s, s.kernelMode = false → ReadDevices (tableAddress (relocate la s) s) s (afterTableRead la s)) ∧
  (∀ a s, SameDevices s (disassemble a s).2 ∧ SameMemory s (disassemble a s).2 ∧
    (disassemble a s).2 = { s with isWrite := false, abus := zext20 a })

/-- Translation: in kernel mode the address itself and no bus transaction; in user mode the relocated address when its page's
bit in the table word is 1, else GPF; the table read is a bus read (R75, R76, R77, R78; log entry 25 on D19). -/
def Obligations.TranslationFollowsTheTable : Prop :=
  ∀ (la : Addr) (s : State),
    (s.kernelMode = true → translate la s = .done la s) ∧
    (s.kernelMode = false →
      let pa : Addr := BitVec.ofNat 20 (la.toNat + (s.sreg rbaseSlot).toNat)
      let table : Addr := BitVec.ofNat 20 ((s.sreg ptableSlot).toNat + pa.toNat / 32768)
      let word := s.busWord table.toNat
      ∃ m, ReadTouches table s m ∧ DrivenByRead table word m ∧
        (word.getLsbD (pa.toNat / 1024 % 32) = true → translate la s = .done pa m) ∧
        (word.getLsbD (pa.toNat / 1024 % 32) = false →
          translate la s = .denied { m with status := m.status ||| 0x1000#16 }))

/-- `lw` on a permitted address: the word on the bus at the physical address goes to the destination (nowhere when that is
`x[0]`), with the read's side effect; memory and everything else stays (R210, R211, R214, R21). -/
def Obligations.LoadWordReadsTheBus : Prop :=
  ∀ (rd rs : Reg) (offset : BitVec 20) (s : State),
    let ea := effectiveAddress rs offset s
    let m := afterTableRead ea s
    let pa := physicalAddress ea s
    accessPermitted ea s = true →
    ea = BitVec.ofInt 20 ((s.reg rs).toInt + offset.toInt) ∧
    ExecutesTo (.lw rd rs offset) s (fun s t =>
      RegWritten rd (m.busWord pa.toNat) s t ∧ Counted s t ∧ t.pc = s.pc ∧ t.status = s.status ∧ SameMemory s t ∧
      SameSequencer s t ∧ ReadDevices pa m t ∧ DrivenByRead pa (m.busWord pa.toNat) t)

/-- `sw` on a permitted address: no register is written; the word stored goes to the physical address, where RAM takes its
four bytes and a device takes it by its write rule; every other byte of memory reads as before (R210, R212, R71, R73). -/
def Obligations.StoreWordWritesOnlyItsWord : Prop :=
  ∀ (rd rs : Reg) (offset : BitVec 20) (s : State),
    let ea := effectiveAddress rs offset s
    let m := afterTableRead ea s
    let pa := physicalAddress ea s
    let inWord : Nat → Prop := fun key => pa.toNat < 0x20000 ∧ byteKey pa.toNat 0 ≤ key ∧ key ≤ byteKey pa.toNat 3
    accessPermitted ea s = true →
    ExecutesTo (.sw rd rs offset) s (fun s t =>
      SameRegs s t ∧ Counted s t ∧ t.pc = s.pc ∧ t.status = s.status ∧ SameSequencer s t ∧
      (∀ key, ¬ inWord key → t.mem.readByte key = s.mem.readByte key) ∧
      (s.mem.wf → ∀ key, inWord key → t.mem.readByte key = byteOfWord (s.reg rd) (key - byteKey pa.toNat 0)) ∧
      (∀ d o, answering s.cfg.parallelVariant pa.toNat = some (d, o) → SameDevices (m.deviceStore d o (s.reg rd)) t) ∧
      (answering s.cfg.parallelVariant pa.toNat = none → SameDevices m t) ∧
      t.abus = zext20 pa ∧ t.isWrite = true ∧ t.dbus = s.reg rd)

/-- `lw` and `sw` on an address the MPU refuses: GPF is raised, nothing is read or stored, and only the table read has
touched anything: the buses hold that read, and the refused address never reaches them (R211, R212, R75, R77). -/
def Obligations.RefusedLoadsAndStoresRaiseGpf : Prop :=
  ∀ (rd rs : Reg) (offset : BitVec 20) (s : State),
    accessPermitted (effectiveAddress rs offset s) s = false →
    ExecutesTo (.lw rd rs offset) s (RefusedAccess (effectiveAddress rs offset s)) ∧
    ExecutesTo (.sw rd rs offset) s (RefusedAccess (effectiveAddress rs offset s))

/-- `la` and `lhi` load their constant (R213, R196). -/
def Obligations.LoadConstants : Prop :=
  ∀ (rd : Reg) (address : Addr) (imm : BitVec 16) (s : State),
    ExecutesTo (.la rd address) s (WritesRegister rd (BitVec.ofNat 32 address.toNat)) ∧
    ExecutesTo (.lhi rd imm) s (WritesRegister rd (BitVec.ofNat 32 (imm.toNat * 65536)))

/-! ### Control transfer -/

/-- `j` and `jr`: `pc` takes the target, reduced to 20 bits, and nothing else changes but `icount` (R200, R201, R202). -/
def Obligations.JumpsSetPc : Prop :=
  ∀ (target : Addr) (rs : Reg) (s : State),
    ExecutesTo (.j target) s (TransfersTo target) ∧
    ExecutesTo (.jr rs) s (TransfersTo (BitVec.ofNat 20 (s.reg rs).toNat))

/-- `jal` and `jalr`: `x[15]` gets the address after the instruction; `jalr` reads its target before it links, so that
`jalr $15` jumps to the old `x[15]` (R203, R204; log entry 25). -/
def Obligations.LinkingJumpsSaveTheReturnAddress : Prop :=
  ∀ (target : Addr) (rs : Reg) (s : State),
    ExecutesTo (.jal target) s (LinksAndTransfersTo target) ∧
    ExecutesTo (.jalr rs) s (LinksAndTransfersTo (BitVec.ofNat 20 (s.reg rs).toNat))

/-- `beqz` and `bnez`: when the condition holds `pc` moves by the signed displacement from the address after the branch, else
it stays there (R205, R206; log entry 9). -/
def Obligations.BranchesTestARegister : Prop :=
  ∀ (rs : Reg) (offset : BitVec 20) (s : State),
    let taken : Addr := BitVec.ofInt 20 (s.pc.toNat + offset.toInt)
    ExecutesTo (.beqz rs offset) s (TransfersTo (if s.reg rs = 0#32 then taken else s.pc)) ∧
    ExecutesTo (.bnez rs offset) s (TransfersTo (if s.reg rs = 0#32 then s.pc else taken))

/-! ### The arithmetic, logic and comparison instructions -/

/-- `add`, `sub` and their immediate forms: the exact signed result, or ARITH and no other effect when it is outside the
signed 32-bit range (R134, R136, R137, R140, R141; log entry 25 on D14). -/
def Obligations.SignedAddAndSubtract : Prop :=
  ∀ (rd rs rt : Reg) (imm : BitVec 16) (s : State),
    let outside : Int → Prop := fun r => r < -2 ^ 31 ∨ 2 ^ 31 - 1 < r
    let a := (s.reg rs).toInt
    let b := (s.reg rt).toInt
    let c := imm.toInt
    ResultOrArith (.add rd rs rt) rd (outside (a + b)) (BitVec.ofInt 32 (a + b)) s ∧
    ResultOrArith (.addi rd rs imm) rd (outside (a + c)) (BitVec.ofInt 32 (a + c)) s ∧
    ResultOrArith (.sub rd rs rt) rd (outside (a - b)) (BitVec.ofInt 32 (a - b)) s ∧
    ResultOrArith (.subi rd rs imm) rd (outside (a - c)) (BitVec.ofInt 32 (a - c)) s

/-- `mult` and `multi`: the exact signed product, or ARITH and no other effect (R134, R144, R145; log entry 25 on D14). -/
def Obligations.SignedMultiply : Prop :=
  ∀ (rd rs rt : Reg) (imm : BitVec 16) (s : State),
    let outside : Int → Prop := fun r => r < -2 ^ 31 ∨ 2 ^ 31 - 1 < r
    let a := (s.reg rs).toInt
    let b := (s.reg rt).toInt
    let c := imm.toInt
    ResultOrArith (.mult rd rs rt) rd (outside (a * b)) (BitVec.ofInt 32 (a * b)) s ∧
    ResultOrArith (.multi rd rs imm) rd (outside (a * c)) (BitVec.ofInt 32 (a * c)) s

/-- `addu`, `subu`, `multu` and their immediate forms: the result modulo 2^32, the immediate zero-extended, never a fault
(R138, R139, R142, R143, R146, R147). -/
def Obligations.UnsignedAddSubtractMultiply : Prop :=
  ∀ (rd rs rt : Reg) (imm : BitVec 16) (s : State),
    let a := (s.reg rs).toNat
    let b := (s.reg rt).toNat
    let c := imm.toNat
    ExecutesTo (.addu rd rs rt) s (WritesRegister rd (BitVec.ofNat 32 (a + b))) ∧
    ExecutesTo (.addui rd rs imm) s (WritesRegister rd (BitVec.ofNat 32 (a + c))) ∧
    ExecutesTo (.subu rd rs rt) s (WritesRegister rd (BitVec.ofInt 32 (a - b))) ∧
    ExecutesTo (.subui rd rs imm) s (WritesRegister rd (BitVec.ofInt 32 (a - c))) ∧
    ExecutesTo (.multu rd rs rt) s (WritesRegister rd (BitVec.ofNat 32 (a * b))) ∧
    ExecutesTo (.multui rd rs imm) s (WritesRegister rd (BitVec.ofNat 32 (a * c)))

/-- `div`, `rem` and their immediate forms: the quotient rounded toward zero and the remainder `a - q * b`, or ARITH and no
other effect on a zero divisor and on -2^31 by -1 (R148, R149, R152, R153; log entry 25 on D14 and D15). -/
def Obligations.SignedDivideAndRemainder : Prop :=
  ∀ (rd rs rt : Reg) (imm : BitVec 16) (s : State),
    let a := (s.reg rs).toInt
    let b := (s.reg rt).toInt
    let c := imm.toInt
    let faults : Int → Prop := fun d => d = 0 ∨ (a = -2 ^ 31 ∧ d = -1)
    let q : Int → Int := fun d => a.sign * d.sign * (a.natAbs / d.natAbs : Nat)
    ResultOrArith (.div rd rs rt) rd (faults b) (BitVec.ofInt 32 (q b)) s ∧
    ResultOrArith (.divi rd rs imm) rd (faults c) (BitVec.ofInt 32 (q c)) s ∧
    ResultOrArith (.rem rd rs rt) rd (faults b) (BitVec.ofInt 32 (a - q b * b)) s ∧
    ResultOrArith (.remi rd rs imm) rd (faults c) (BitVec.ofInt 32 (a - q c * c)) s

/-- `divu`, `remu` and their immediate forms: unsigned quotient and remainder, or ARITH and no other effect on a zero divisor
(R150, R151, R154, R155). -/
def Obligations.UnsignedDivideAndRemainder : Prop :=
  ∀ (rd rs rt : Reg) (imm : BitVec 16) (s : State),
    let a := (s.reg rs).toNat
    let b := (s.reg rt).toNat
    let c := imm.toNat
    ResultOrArith (.divu rd rs rt) rd (b = 0) (BitVec.ofNat 32 (a / b)) s ∧
    ResultOrArith (.divui rd rs imm) rd (c = 0) (BitVec.ofNat 32 (a / c)) s ∧
    ResultOrArith (.remu rd rs rt) rd (b = 0) (BitVec.ofNat 32 (a % b)) s ∧
    ResultOrArith (.remui rd rs imm) rd (c = 0) (BitVec.ofNat 32 (a % c)) s

/-- The shifts: the count is the low five bits of the second operand; `sll` and `srl` fill with zeros, `sra` divides the
signed value rounding down (R156, R157, R160, R161, R164, R165; log entry 25 on D16). -/
def Obligations.ShiftsUseFiveBits : Prop :=
  ∀ (rd rs rt : Reg) (imm : BitVec 16) (s : State),
    let a := s.reg rs
    let b := (s.reg rt).toNat % 32
    let c := imm.toNat % 32
    ExecutesTo (.sll rd rs rt) s (WritesRegister rd (BitVec.ofNat 32 (a.toNat * 2 ^ b))) ∧
    ExecutesTo (.slli rd rs imm) s (WritesRegister rd (BitVec.ofNat 32 (a.toNat * 2 ^ c))) ∧
    ExecutesTo (.srl rd rs rt) s (WritesRegister rd (BitVec.ofNat 32 (a.toNat / 2 ^ b))) ∧
    ExecutesTo (.srli rd rs imm) s (WritesRegister rd (BitVec.ofNat 32 (a.toNat / 2 ^ c))) ∧
    ExecutesTo (.sra rd rs rt) s (WritesRegister rd (BitVec.ofInt 32 (a.toInt / 2 ^ b))) ∧
    ExecutesTo (.srai rd rs imm) s (WritesRegister rd (BitVec.ofInt 32 (a.toInt / 2 ^ c)))

/-- `and`, `or`, `xor` and their immediate forms, the immediate zero-extended (R158, R159, R162, R163, R166, R167; log entry 25
on D43). -/
def Obligations.LogicZeroExtendsItsImmediate : Prop :=
  ∀ (rd rs rt : Reg) (imm : BitVec 16) (s : State),
    let a := s.reg rs
    let b := s.reg rt
    let c := BitVec.ofNat 32 imm.toNat
    ExecutesTo (.and rd rs rt) s (WritesRegister rd (a &&& b)) ∧ ExecutesTo (.andi rd rs imm) s (WritesRegister rd (a &&& c)) ∧
    ExecutesTo (.or rd rs rt) s (WritesRegister rd (a ||| b)) ∧ ExecutesTo (.ori rd rs imm) s (WritesRegister rd (a ||| c)) ∧
    ExecutesTo (.xor rd rs rt) s (WritesRegister rd (a ^^^ b)) ∧ ExecutesTo (.xori rd rs imm) s (WritesRegister rd (a ^^^ c))

/-- The order comparisons, register and immediate forms: 1 when the relation holds of the signed or of the unsigned values, 0
when it does not; the signed forms sign-extend the immediate, the unsigned ones zero-extend it (R170 to R187). -/
def Obligations.OrderComparisons : Prop :=
  ∀ (rd rs rt : Reg) (imm : BitVec 16) (s : State),
    let a := (s.reg rs).toInt
    let b := (s.reg rt).toInt
    let c := imm.toInt
    let ua := (s.reg rs).toNat
    let ub := (s.reg rt).toNat
    let uc := imm.toNat
    let yields : Instr → Prop → Prop := fun i p =>
      (p → ExecutesTo i s (WritesRegister rd 1#32)) ∧ (¬ p → ExecutesTo i s (WritesRegister rd 0#32))
    (yields (.slt rd rs rt) (a < b) ∧ yields (.slti rd rs imm) (a < c) ∧
     yields (.sgt rd rs rt) (a > b) ∧ yields (.sgti rd rs imm) (a > c) ∧
     yields (.sle rd rs rt) (a ≤ b) ∧ yields (.slei rd rs imm) (a ≤ c) ∧
     yields (.sge rd rs rt) (a ≥ b) ∧ yields (.sgei rd rs imm) (a ≥ c)) ∧
    (yields (.sltu rd rs rt) (ua < ub) ∧ yields (.sltui rd rs imm) (ua < uc) ∧
     yields (.sgtu rd rs rt) (ua > ub) ∧ yields (.sgtui rd rs imm) (ua > uc) ∧
     yields (.sleu rd rs rt) (ua ≤ ub) ∧ yields (.sleui rd rs imm) (ua ≤ uc) ∧
     yields (.sgeu rd rs rt) (ua ≥ ub) ∧ yields (.sgeui rd rs imm) (ua ≥ uc))

/-- The equality comparisons, register and immediate forms: `seqi` and `snei` sign-extend the immediate, `sequi` and `sneui`
zero-extend it (R188 to R195, R171). -/
def Obligations.EqualityComparisons : Prop :=
  ∀ (rd rs rt : Reg) (imm : BitVec 16) (s : State),
    let yields : Instr → Prop → Prop := fun i p =>
      (p → ExecutesTo i s (WritesRegister rd 1#32)) ∧ (¬ p → ExecutesTo i s (WritesRegister rd 0#32))
    yields (.seq rd rs rt) (s.reg rs = s.reg rt) ∧ yields (.sequ rd rs rt) (s.reg rs = s.reg rt) ∧
    yields (.sne rd rs rt) (s.reg rs ≠ s.reg rt) ∧ yields (.sneu rd rs rt) (s.reg rs ≠ s.reg rt) ∧
    yields (.seqi rd rs imm) ((s.reg rs).toInt = imm.toInt) ∧ yields (.sequi rd rs imm) ((s.reg rs).toNat = imm.toNat) ∧
    yields (.snei rd rs imm) ((s.reg rs).toInt ≠ imm.toInt) ∧ yields (.sneui rd rs imm) ((s.reg rs).toNat ≠ imm.toNat)

/-! ### Devices and the host -/

/-- An enabled timer with count `C` in any phase of its prescaler: the `m`-th decrement step comes after `m` prescaler periods
less the phase, the first `C` of them count down to 0 without an interrupt, and the one after that reloads or disables,
asserts the interrupt and notes an overrun (R257, R259, R260, R261; log entry 25 on D27). -/
def Obligations.TimerExpiresAfterCountPlusOneSteps : Prop :=
  ∀ (div : Nat) (t : Timer), t.prescale < div → t.control.getLsbD 0 = true →
    let after : Nat → Timer := fun m => (Timer.tick div)^[m * div - t.prescale] t
    (∀ m, 1 ≤ m → m ≤ t.count.toNat →
      (after m).count = t.count - BitVec.ofNat 32 m ∧ (after m).iack = t.iack ∧ (after m).control = t.control ∧
      (after m).load = t.load ∧ (after m).prescale = 0) ∧
    (let e := after (t.count.toNat + 1)
     e.count = (if t.control.getLsbD 1 then t.load else 0#32) ∧
     e.control = (if t.control.getLsbD 1 then t.control else t.control &&& 0xFFFFFFFE#32) ∧
     e.iack = (if t.iack.getLsbD 0 then t.iack ||| 3#32 else t.iack ||| 1#32) ∧ e.load = t.load ∧ e.prescale = 0)

/-- A store to the timer's `control`: the word is stored, and only a 0-to-1 change of the enable bit copies `load` to `count`;
a store to another word of the timer stores only (R258, R73; log entry 11). -/
def Obligations.TimerStoresCopyLoadOnlyOnEnable : Prop :=
  ∀ (v : Word) (s : State),
    (let t := physWrite 0x72000#20 v s
     t.timer.control = v ∧
     t.timer.count = (if s.timer.control.getLsbD 0 = false ∧ v.getLsbD 0 = true then s.timer.load else s.timer.count) ∧
     t.timer.load = s.timer.load ∧ t.timer.iack = s.timer.iack ∧ t.timer.prescale = s.timer.prescale ∧
     SameMemory s t ∧ t.serial1 = s.serial1 ∧ t.serial2 = s.serial2 ∧ t.parallel = s.parallel ∧ t.button = s.button) ∧
    (physWrite 0x72001#20 v s).timer = { s.timer with load := v } ∧
    (physWrite 0x72002#20 v s).timer = { s.timer with count := v } ∧
    (physWrite 0x72003#20 v s).timer = { s.timer with iack := v }

/-- The serial port's clock step, once per board tick, port 1's event before port 2's: the transmitter, the receiver and the
guard window each count down, and a countdown that reaches 0 completes its transfer (R276). -/
def Obligations.SerialClockStep : Prop :=
  (∀ p : Serial,
    let q := p.tick.1
    q.txCountdown = p.txCountdown - 1 ∧ q.rxCountdown = p.rxCountdown - 1 ∧ q.rxGuard = p.rxGuard - 1 ∧
    p.tick.2 = (if p.txCountdown = 1 then some (BitVec.ofNat 8 p.tx.toNat) else none) ∧
    q.rx = (if p.rxCountdown = 1 then BitVec.ofNat 32 p.rxPending.toNat else p.rx) ∧
    q.status = p.status ||| (if p.txCountdown = 1 then 2#32 else 0#32) ||| (if p.rxCountdown = 1 then 1#32 else 0#32) ∧
    q.iack = p.iack ||| (if p.txCountdown = 1 ∧ p.control.getLsbD 9 = true then 2#32 else 0#32) |||
      (if p.rxCountdown = 1 ∧ p.control.getLsbD 8 = true then 1#32 else 0#32) ∧
    q.tx = p.tx ∧ q.control = p.control ∧ q.rxPending = p.rxPending) ∧
  (∀ (c : Bool) (s : State),
    let t := finishTick c s
    t.timer = s.timer.tick s.cfg.timerDiv ∧ t.serial1 = s.serial1.tick.1 ∧ t.serial2 = s.serial2.tick.1 ∧
    t.sent = txEvents .one s.serial1.tick.2 ++ txEvents .two s.serial2.tick.2)

/-- Both directions of a serial transfer start with the symbol time of the port's `control`: a store to `tx` clears
transmit-done and arms the transmitter, while a store to `rx`, `control`, `status` or `iack` only stores and leaves the other
port alone; a byte from the host is accepted exactly when no reception is in flight, the guard window has passed and
data-ready is 0 (R267, R268, R270, R271, R273, R274, R288; log entry 11 and log entry 25 on D28 and D38). -/
def Obligations.SerialTransfersStart : Prop :=
  ∀ (v : Word) (b : Byte) (s : State),
    let symbol : Word → Nat := fun c =>
      let n := c.toNat
      max 1 ((8 + n / 64 % 4 + n / 8 % 2 - (if n / 16 % 4 = 0 then 1 else 0)) * s.cfg.clockHz / (300 * 2 ^ (n % 8)))
    let transmits : Serial → Serial → Prop := fun p q =>
      q = { p with tx := v, status := p.status &&& 0xFFFFFFFD#32, txCountdown := symbol p.control }
    transmits s.serial1 (physWrite 0x70000#20 v s).serial1 ∧ (physWrite 0x70000#20 v s).serial2 = s.serial2 ∧
    transmits s.serial2 (physWrite 0x71000#20 v s).serial2 ∧ (physWrite 0x71000#20 v s).serial1 = s.serial1 ∧
    ((physWrite 0x70001#20 v s).serial1 = { s.serial1 with rx := v } ∧ (physWrite 0x70001#20 v s).serial2 = s.serial2 ∧
     (physWrite 0x70002#20 v s).serial1 = { s.serial1 with control := v } ∧
     (physWrite 0x70002#20 v s).serial2 = s.serial2 ∧
     (physWrite 0x70003#20 v s).serial1 = { s.serial1 with status := v } ∧
     (physWrite 0x70003#20 v s).serial2 = s.serial2 ∧
     (physWrite 0x70004#20 v s).serial1 = { s.serial1 with iack := v } ∧
     (physWrite 0x70004#20 v s).serial2 = s.serial2) ∧
    ((physWrite 0x71001#20 v s).serial2 = { s.serial2 with rx := v } ∧ (physWrite 0x71001#20 v s).serial1 = s.serial1 ∧
     (physWrite 0x71002#20 v s).serial2 = { s.serial2 with control := v } ∧
     (physWrite 0x71002#20 v s).serial1 = s.serial1 ∧
     (physWrite 0x71003#20 v s).serial2 = { s.serial2 with status := v } ∧
     (physWrite 0x71003#20 v s).serial1 = s.serial1 ∧
     (physWrite 0x71004#20 v s).serial2 = { s.serial2 with iack := v } ∧
     (physWrite 0x71004#20 v s).serial1 = s.serial1) ∧
    (∀ port,
      let p := s.serial port
      ((p.rxCountdown = 0 ∧ p.rxGuard = 0 ∧ p.status.getLsbD 0 = false) →
        trySend port b s = (true, s.setSerial port
          { p with rxPending := b, rxCountdown := symbol p.control, rxGuard := s.cfg.rxGuardTicks })) ∧
      (¬ (p.rxCountdown = 0 ∧ p.rxGuard = 0 ∧ p.status.getLsbD 0 = false) → trySend port b s = (false, s)))

/-- A store to the parallel controller: the switches and the buttons ignore it, every other word the variant has takes it,
and `display_changed` is set exactly by the display registers (R277, R279, R281, R284; log entry 11). -/
def Obligations.ParallelStores : Prop :=
  ∀ (o : Nat) (v : Word) (s : State), o < s.cfg.parallelVariant.length →
    let t := physWrite (BitVec.ofNat 20 (0x73000 + o)) v s
    (∀ q, q < 11 → t.parallel.word q = if q = o ∧ 2 ≤ o then v else s.parallel.word q) ∧
    t.parallel.displayChanged =
      (s.parallel.displayChanged || decide (o = 2 ∨ o = 3 ∨ o = 6 ∨ o = 7 ∨ o = 8 ∨ o = 9)) ∧
    SameMemory s t ∧ t.timer = s.timer ∧ t.serial1 = s.serial1 ∧ t.serial2 = s.serial2 ∧ t.button = s.button

/-- The interrupt button: a press sets bit 0 of its ack word, so that IRQ 1 is high; a release clears the word, so that IRQ 1
is low; nothing else changes (R286). -/
def Obligations.ButtonPressAndRelease : Prop :=
  ∀ s : State,
    (pressButton s).button = s.button ||| 1#32 ∧ (pressButton s).irq.getLsbD 1 = true ∧
    (releaseButton s).button = 0#32 ∧ (releaseButton s).irq.getLsbD 1 = false ∧
    { pressButton s with button := s.button } = s ∧ { releaseButton s with button := s.button } = s

/-- The host sets the switches or the buttons: the word is the host's, and the interrupt is raised exactly when `control` bit
1 is 1 (R279; log entry 11). -/
def Obligations.HostSetsSwitchesAndButtons : Prop :=
  ∀ (v : Word) (s : State),
    let ack := if s.parallel.control.getLsbD 1 then s.parallel.iack ||| 1#32 else s.parallel.iack
    (setSwitches v s).parallel = { s.parallel with switches := v, iack := ack } ∧
    (setButtons v s).parallel = { s.parallel with buttons := v, iack := ack } ∧
    { setSwitches v s with parallel := s.parallel } = s ∧ { setButtons v s with parallel := s.parallel } = s

/-- A board reset: the register files, the CPU, the buses and every device have the values of the table, RAM is all ones
unless it is kept, and ROM, `ticks`, `display_changed` and the parameters stay; the machine as constructed has the table's
values too, with RAM holding RAM_INIT and ROM holding ROM_IMAGE, whatever they are; `State.reset` is one such machine (R7,
R52, R300, R301, R302; the values are those of log entries 2, 3, 4, 10 and 11). -/
def Obligations.BoardResetValues : Prop :=
  ∀ (keep : Bool) (s : State),
    let values : State → Prop := fun t =>
      (∀ r, t.reg r = if r = 0#4 then 0#32 else t.cfg.resetFill) ∧
      (∀ k, t.sreg k = if k = 0#4 then 0#32 else if k = cctrlSlot then 8#32 else t.cfg.resetFill) ∧
      t.pc = 0x80000#20 ∧ t.status = 0#16 ∧ t.countdown = 0 ∧ t.abus = 0#32 ∧ t.isWrite = false ∧
      t.ir = t.cfg.resetIr ∧ t.dbus = t.cfg.resetDbus ∧ (∀ port, (t.serial port).rxPending = t.cfg.resetRxPending) ∧
      t.timer = { control := 0#32, load := 0#32, count := 0#32, iack := 0#32, prescale := 0 } ∧
      (∀ port, (t.serial port).tx = 0#32 ∧ (t.serial port).rx = 0#32 ∧ (t.serial port).control = 0xC7#32 ∧
        (t.serial port).status = 2#32 ∧ (t.serial port).iack = 0#32 ∧ (t.serial port).txCountdown = 0 ∧
        (t.serial port).rxCountdown = 0 ∧ (t.serial port).rxGuard = 0) ∧
      (∀ o, o < 11 → t.parallel.word o = if o = 4 then 1#32 else 0#32) ∧ t.button = 0#32 ∧ t.irq = 0#32
    let t := boardReset keep s
    values t ∧ values State.reset ∧ State.reset.ticks = 0 ∧ State.reset.parallel.displayChanged = false ∧
    t.cfg = s.cfg ∧ t.ticks = s.ticks ∧ t.parallel.displayChanged = s.parallel.displayChanged ∧
    (∀ a, a < 0x20000 → t.mem.readWord a = (if keep then s.mem.readWord a else 0xFFFFFFFF#32) ∧
      State.reset.mem.readWord a = 0xFFFFFFFF#32) ∧
    (∀ a, 0x80000 ≤ a → t.mem.readWord a = s.mem.readWord a) ∧
    (∀ cfg ramInit romImage,
      let c := State.construct cfg ramInit romImage
      values c ∧ c.cfg = cfg ∧ c.ticks = 0 ∧ c.parallel.displayChanged = false ∧
      (∀ a, a < 0x20000 → c.mem.readWord a = ramInit.readWord a) ∧
      (∀ a, 0x80000 ≤ a → c.mem.readWord a = romImage.readWord a))

/-- A record of type 7 sets `pc` to its address, reduced to 20 bits, and nothing else changes (R311). -/
def Obligations.TypeSevenRecordSetsPc : Prop :=
  ∀ (line : List Char) (rest : List (List Char)) (r : Record) (n : Nat) (s : State),
    parseRecord line = .ok r → r.type = '7' →
    loadLines (line :: rest) n s = loadLines rest n { s with pc := BitVec.ofNat 20 r.address }

/-- A record of type 3 whose words lie in RAM or ROM writes them one after the other from its address on, and no other word of
memory; nothing outside memory changes (R310; log entry 25 on D45). -/
def Obligations.TypeThreeRecordWritesItsWords : Prop :=
  ∀ (r : Record) (ws : List Word) (s : State), r.type = '3' → payloadWords r.payload = some ws → s.mem.wf →
    (r.address + ws.length ≤ 0x20000 ∨ 0x80000 ≤ r.address ∧ r.address + ws.length ≤ 0xC0000) →
    let t := (applyRecord r s).2
    (applyRecord r s).1 = ws.length ∧
    (∀ j v, ws[j]? = some v → t.mem.readWord (r.address + j) = v) ∧
    (∀ a, a < r.address ∨ r.address + ws.length ≤ a → t.mem.readWord a = s.mem.readWord a) ∧
    t = { s with mem := t.mem }

/-- A load stops at the first bad record: the records before it have taken effect, it and everything after it have none
(R312). -/
def Obligations.LoadStopsAtTheFirstBadRecord : Prop :=
  ∀ (good : List (List Char)) (bad : List Char) (rest : List (List Char)) (e : LoadError) (n : Nat) (s : State),
    (∀ line, line ∈ good → line = [] ∨ ∃ r, parseRecord line = .ok r) → bad ≠ [] → parseRecord bad = .error e →
    let l := loadLines (good ++ bad :: rest) n s
    let before := loadLines good n s
    l.error = some e ∧ l.state = before.state ∧ l.words = before.words ∧ before.error = none

/-! ### The invariant and isolation -/

/-- The machine right after reset meets the invariant: it is the model's choices of the memory form, of what an unloaded
memory reads as and of the parameters, and the spec's reset values, that meet it (R7, R21, R40, R48, R52, R61; log entries 1,
2, 5 and 10). -/
def Obligations.ResetMeetsTheInvariant : Prop := State.reset.Inv

/-- Every step keeps the invariant: memory stays canonical, slot 0 of the general registers stays 0, the accumulator's low
bits stay 0, the address bus holds a 20-bit address, the prescaler stays below the divisor, the parameters stay legal (R21,
R40, R48, R61, R7; log entries 1 and 22). -/
def Obligations.EveryStepKeepsTheInvariant : Prop := ∀ s t : State, s.Inv → step s = .next t → t.Inv

/-- Every host action keeps the invariant: reset, load, button, switches, serial bytes, the disassembler's read (R330, R43;
log entries 1 and 29). -/
def Obligations.HostActionsKeepTheInvariant : Prop := ∀ (a : HostAction) (s : State), s.Inv → (hostAct a s).Inv

/-- Isolation: a tick that runs in user mode leaves every word of memory as it is whose page the protection table, itself in
RAM or ROM, forbids (R75 to R78, R212). -/
def Obligations.UserModeNeverStoresToAForbiddenPage : Prop :=
  ∀ s t : State, s.countdown = 0 → (atFetch s).kernelMode = false → step s = .next t →
    ∀ pa : Addr, tableInMemory pa (atFetch s) = true → pagePermitted pa (atFetch s) = false →
      t.mem.readWord pa.toNat = s.mem.readWord pa.toNat

end Slice0Statements
end

