-- ==== Sys2Proof/Laws/Encoding.lean ====
section
/-! SUPPORT. The fields of an encoded word, one lemma per field and layout (R101 to R105), and the case split of the decoder. -/

namespace Sys2Proof

/-- A word is its bits. -/
theorem word_ext {n : Nat} {x y : BitVec n} (h : ∀ i, i < n → x.getLsbD i = y.getLsbD i) : x = y :=
  BitVec.eq_of_getLsbD_eq h

theorem opField_encodeR (op fn rd rs rt : BitVec 4) : opField (encodeR op fn rd rs rt) = op := by
  apply word_ext
  intro i hi
  simp only [opField, encodeR, BitVec.getLsbD_extractLsb', BitVec.getLsbD_append]
  interval_cases i <;> simp

theorem rdField_encodeR (op fn rd rs rt : BitVec 4) : rdField (encodeR op fn rd rs rt) = rd := by
  apply word_ext
  intro i hi
  simp only [rdField, encodeR, BitVec.getLsbD_extractLsb', BitVec.getLsbD_append]
  interval_cases i <;> simp

theorem rsField_encodeR (op fn rd rs rt : BitVec 4) : rsField (encodeR op fn rd rs rt) = rs := by
  apply word_ext
  intro i hi
  simp only [rsField, encodeR, BitVec.getLsbD_extractLsb', BitVec.getLsbD_append]
  interval_cases i <;> simp

theorem opField_encodeI (op fn rd rs : BitVec 4) (imm : BitVec 16) : opField (encodeI op fn rd rs imm) = op := by
  apply word_ext
  intro i hi
  simp only [opField, encodeI, BitVec.getLsbD_extractLsb', BitVec.getLsbD_append]
  interval_cases i <;> simp

theorem rdField_encodeI (op fn rd rs : BitVec 4) (imm : BitVec 16) : rdField (encodeI op fn rd rs imm) = rd := by
  apply word_ext
  intro i hi
  simp only [rdField, encodeI, BitVec.getLsbD_extractLsb', BitVec.getLsbD_append]
  interval_cases i <;> simp

theorem rsField_encodeI (op fn rd rs : BitVec 4) (imm : BitVec 16) : rsField (encodeI op fn rd rs imm) = rs := by
  apply word_ext
  intro i hi
  simp only [rsField, encodeI, BitVec.getLsbD_extractLsb', BitVec.getLsbD_append]
  interval_cases i <;> simp

theorem opField_encodeJ (op rd rs : BitVec 4) (imm : BitVec 20) : opField (encodeJ op rd rs imm) = op := by
  apply word_ext
  intro i hi
  simp only [opField, encodeJ, BitVec.getLsbD_extractLsb', BitVec.getLsbD_append]
  interval_cases i <;> simp

theorem rdField_encodeJ (op rd rs : BitVec 4) (imm : BitVec 20) : rdField (encodeJ op rd rs imm) = rd := by
  apply word_ext
  intro i hi
  simp only [rdField, encodeJ, BitVec.getLsbD_extractLsb', BitVec.getLsbD_append]
  interval_cases i <;> simp

theorem rsField_encodeJ (op rd rs : BitVec 4) (imm : BitVec 20) : rsField (encodeJ op rd rs imm) = rs := by
  apply word_ext
  intro i hi
  simp only [rsField, encodeJ, BitVec.getLsbD_extractLsb', BitVec.getLsbD_append]
  interval_cases i <;> simp

theorem fn4Field_encodeR (op fn rd rs rt : BitVec 4) : fn4Field (encodeR op fn rd rs rt) = fn := by
  apply word_ext
  intro i hi
  simp only [fn4Field, encodeR, BitVec.getLsbD_extractLsb', BitVec.getLsbD_append]
  interval_cases i <;> simp

theorem rtField_encodeR (op fn rd rs rt : BitVec 4) : rtField (encodeR op fn rd rs rt) = rt := by
  apply word_ext
  intro i hi
  simp only [rtField, encodeR, BitVec.getLsbD_extractLsb', BitVec.getLsbD_append]
  interval_cases i <;> simp

theorem funcField_encodeR (op fn rd rs rt : BitVec 4) : funcField (encodeR op fn rd rs rt) = op.extractLsb' 1 1 ++ fn := by
  apply word_ext
  intro i hi
  simp only [funcField, fn4Field, encodeR, BitVec.getLsbD_extractLsb', BitVec.getLsbD_append]
  interval_cases i <;> simp

theorem fn4Field_encodeI (op fn rd rs : BitVec 4) (imm : BitVec 16) : fn4Field (encodeI op fn rd rs imm) = fn := by
  apply word_ext
  intro i hi
  simp only [fn4Field, encodeI, BitVec.getLsbD_extractLsb', BitVec.getLsbD_append]
  interval_cases i <;> simp

theorem imm16Field_encodeI (op fn rd rs : BitVec 4) (imm : BitVec 16) : imm16Field (encodeI op fn rd rs imm) = imm := by
  apply word_ext
  intro i hi
  simp only [imm16Field, encodeI, BitVec.getLsbD_extractLsb', BitVec.getLsbD_append]
  interval_cases i <;> simp

theorem funcField_encodeI (op fn rd rs : BitVec 4) (imm : BitVec 16) : funcField (encodeI op fn rd rs imm) = op.extractLsb' 1 1 ++ fn := by
  apply word_ext
  intro i hi
  simp only [funcField, fn4Field, encodeI, BitVec.getLsbD_extractLsb', BitVec.getLsbD_append]
  interval_cases i <;> simp

theorem imm20Field_encodeJ (op rd rs : BitVec 4) (imm : BitVec 20) : imm20Field (encodeJ op rd rs imm) = imm := by
  apply word_ext
  intro i hi
  simp only [imm20Field, encodeJ, BitVec.getLsbD_extractLsb', BitVec.getLsbD_append]
  interval_cases i <;> simp

end Sys2Proof
end

