-- ==== Sys2Proof/Laws/Memory.lean ====
section
/-! SUPPORT. Memory: a write is read back, other bytes stay, and every operation keeps the canonical form. -/

namespace Sys2Proof.Machine

/-- A byte other than the one written reads as before; no canonical form is needed. -/
theorem Memory.readByte_writeByte_other (m : Memory) (a b : Nat) (v : Byte) (h : b ≠ a) :
    (m.writeByte a v).readByte b = m.readByte b := by
  induction m with
  | nil =>
    unfold Memory.writeByte
    split <;> simp [Memory.readByte, Ne.symm h]
  | cons c rest ih =>
    obtain ⟨k, w⟩ := c
    unfold Memory.writeByte
    split
    · split <;> simp [Memory.readByte, Ne.symm h]
    · split
      · rename_i _ hk
        have hkb : ¬ k = b := fun e => h (by omega)
        split <;> simp [Memory.readByte, Ne.symm h, hkb]
      · simp [Memory.readByte, ih]

/-- Below every listed key nothing is listed. -/
theorem Memory.readByte_below (m : Memory) (a : Nat) (h : ∀ c ∈ m, a < c.1) : m.readByte a = unwrittenByte := by
  induction m with
  | nil => rfl
  | cons c rest ih =>
    have hc := h c (by simp)
    have : ¬ c.1 = a := by omega
    simp [Memory.readByte, this, ih (fun d hd => h d (by simp [hd]))]

/-- A cell that is not listed reads as an unwritten byte. -/
theorem Memory.readByte_absent (m : Memory) (key : Nat) (h : ∀ c ∈ m, c.1 ≠ key) : m.readByte key = unwrittenByte := by
  induction m with
  | nil => rfl
  | cons c rest ih =>
    simp [Memory.readByte, h c (by simp), ih (fun d hd => h d (by simp [hd]))]

/-- The byte written is read back from memory whose keys rise strictly. -/
theorem Memory.readByte_writeByte_same (m : Memory) (a : Nat) (v : Byte)
    (h : m.Pairwise (fun x y => x.1 < y.1)) : (m.writeByte a v).readByte a = v := by
  induction m with
  | nil =>
    unfold Memory.writeByte
    split
    · simp [Memory.readByte, *]
    · simp [Memory.readByte]
  | cons c rest ih =>
    obtain ⟨k, w⟩ := c
    rw [List.pairwise_cons] at h
    unfold Memory.writeByte
    split
    · rename_i hlt
      split
      · rename_i hv
        rw [Memory.readByte_below, hv]
        intro d hd
        rcases List.mem_cons.mp hd with rfl | hd
        · exact hlt
        · exact lt_trans hlt (h.1 d hd)
      · simp [Memory.readByte]
    · split
      · rename_i hk
        split
        · rename_i hv
          rw [hv]
          exact Memory.readByte_below _ _ (fun d hd => by have := h.1 d hd; simpa [hk] using this)
        · simp [Memory.readByte]
      · rename_i hne
        have : ¬ k = a := fun e => hne e.symm
        simp [Memory.readByte, this, ih h.2]

/-- What a write can list: the key written, or what was listed. -/
theorem Memory.mem_writeByte (m : Memory) (a : Nat) (v : Byte) (c : Host.Cell) (h : c ∈ m.writeByte a v) :
    (c = (a, v) ∧ v ≠ unwrittenByte) ∨ c ∈ m := by
  induction m with
  | nil =>
    unfold Memory.writeByte at h
    split at h
    · simp at h
    · left; simp_all
  | cons d rest ih =>
    obtain ⟨k, w⟩ := d
    unfold Memory.writeByte at h
    split at h
    · split at h
      · exact .inr h
      · rcases List.mem_cons.mp h with rfl | h
        · left; simp_all
        · exact .inr h
    · split at h
      · split at h
        · exact .inr (List.mem_cons_of_mem _ h)
        · rcases List.mem_cons.mp h with rfl | h
          · left; simp_all
          · exact .inr (List.mem_cons_of_mem _ h)
      · rcases List.mem_cons.mp h with rfl | h
        · exact .inr (by simp)
        · rcases ih h with h | h
          · exact .inl h
          · exact .inr (List.mem_cons_of_mem _ h)

/-- A write keeps the keys strictly rising. -/
theorem Memory.pairwise_writeByte (m : Memory) (a : Nat) (v : Byte) (h : m.Pairwise (fun x y => x.1 < y.1)) :
    (m.writeByte a v).Pairwise (fun x y => x.1 < y.1) := by
  induction m with
  | nil =>
    unfold Memory.writeByte
    split <;> simp
  | cons c rest ih =>
    obtain ⟨k, w⟩ := c
    have h0 := h
    rw [List.pairwise_cons] at h
    unfold Memory.writeByte
    split
    · rename_i hlt
      split
      · exact h0
      · refine List.pairwise_cons.mpr ⟨fun d hd => ?_, h0⟩
        rcases List.mem_cons.mp hd with rfl | hd
        · exact hlt
        · exact lt_trans hlt (h.1 d hd)
    · split
      · rename_i hk
        split
        · exact h.2
        · exact List.pairwise_cons.mpr ⟨fun d hd => by have := h.1 d hd; simpa [hk] using this, h.2⟩
      · rename_i hge hne
        refine List.pairwise_cons.mpr ⟨fun d hd => ?_, ih h.2⟩
        rcases Memory.mem_writeByte _ _ _ _ hd with ⟨rfl, _⟩ | hd
        · simp only; omega
        · exact h.1 d hd

/-- A write of a byte of RAM or ROM keeps the canonical form. -/
theorem Memory.wf_writeByte (m : Memory) (a : Nat) (v : Byte) (hm : m.wf) (ha : cellBacked a = true) :
    (m.writeByte a v).wf := by
  refine ⟨Memory.pairwise_writeByte m a v hm.1, fun c hc => ?_⟩
  rcases Memory.mem_writeByte _ _ _ _ hc with ⟨rfl, hv⟩ | hc
  · exact ⟨hv, ha⟩
  · exact hm.2 c hc

/-- A write of a word of RAM or ROM keeps the canonical form. -/
theorem Memory.wf_writeWord (m : Memory) (a : Nat) (v : Word) (hm : m.wf)
    (ha : a < ramLength ∨ (romBase ≤ a ∧ a < romBase + romLength)) : (m.writeWord a v).wf := by
  have hb : ∀ k, k < 4 → cellBacked (byteKey a k) = true := by
    intro k hk
    unfold cellBacked byteKey
    simp only [Bool.or_eq_true, Bool.and_eq_true, decide_eq_true_eq]
    omega
  unfold Memory.writeWord
  exact Memory.wf_writeByte _ _ _ (Memory.wf_writeByte _ _ _ (Memory.wf_writeByte _ _ _
    (Memory.wf_writeByte _ _ _ hm (hb 0 (by omega))) (hb 1 (by omega))) (hb 2 (by omega))) (hb 3 (by omega))

/-- A byte outside the word written reads as before. -/
theorem Memory.readByte_writeWord_other (m : Memory) (a : Nat) (v : Word) (key : Nat)
    (h : key < byteKey a 0 ∨ byteKey a 3 < key) : (m.writeWord a v).readByte key = m.readByte key := by
  unfold Memory.writeWord byteKey at *
  rw [Memory.readByte_writeByte_other _ _ _ _ (by omega), Memory.readByte_writeByte_other _ _ _ _ (by omega),
    Memory.readByte_writeByte_other _ _ _ _ (by omega), Memory.readByte_writeByte_other _ _ _ _ (by omega)]

/-- A word other than the one written reads as before. -/
theorem Memory.readWord_writeWord_other (m : Memory) (a b : Nat) (v : Word) (h : b ≠ a) :
    (m.writeWord a v).readWord b = m.readWord b := by
  unfold Memory.readWord
  have hk : ∀ k, k < 4 → byteKey b k < byteKey a 0 ∨ byteKey a 3 < byteKey b k := by
    intro k hk; unfold byteKey; omega
  simp only [Memory.readByte_writeWord_other _ _ _ _ (hk 0 (by omega)), Memory.readByte_writeWord_other _ _ _ _ (hk 1 (by omega)),
    Memory.readByte_writeWord_other _ _ _ _ (hk 2 (by omega)), Memory.readByte_writeWord_other _ _ _ _ (hk 3 (by omega))]

/-- The four bytes of a word make the word (R62). -/
theorem wordOfBytes_byteOfWord (v : Word) :
    wordOfBytes (byteOfWord v 0) (byteOfWord v 1) (byteOfWord v 2) (byteOfWord v 3) = v := by
  apply BitVec.eq_of_getLsbD_eq
  intro i hi
  simp only [wordOfBytes, byteOfWord, BitVec.getLsbD_append, BitVec.getLsbD_extractLsb']
  interval_cases i <;> simp

/-- The word written is read back. -/
theorem Memory.readWord_writeWord_same (m : Memory) (a : Nat) (v : Word) (h : m.wf) :
    (m.writeWord a v).readWord a = v := by
  have h0 := Memory.pairwise_writeByte m (byteKey a 0) (byteOfWord v 0) h.1
  have h1 := Memory.pairwise_writeByte _ (byteKey a 1) (byteOfWord v 1) h0
  have h2 := Memory.pairwise_writeByte _ (byteKey a 2) (byteOfWord v 2) h1
  have e : ∀ i j, i ≠ j → byteKey a i ≠ byteKey a j := by intro i j hij; unfold byteKey; omega
  unfold Memory.readWord Memory.writeWord
  rw [Memory.readByte_writeByte_other _ _ _ _ (e 0 3 (by decide)), Memory.readByte_writeByte_other _ _ _ _ (e 0 2 (by decide)),
    Memory.readByte_writeByte_other _ _ _ _ (e 0 1 (by decide)), Memory.readByte_writeByte_same _ _ _ h.1,
    Memory.readByte_writeByte_other _ _ _ _ (e 1 3 (by decide)), Memory.readByte_writeByte_other _ _ _ _ (e 1 2 (by decide)),
    Memory.readByte_writeByte_same _ _ _ h0,
    Memory.readByte_writeByte_other _ _ _ _ (e 2 3 (by decide)), Memory.readByte_writeByte_same _ _ _ h1,
    Memory.readByte_writeByte_same _ _ _ h2]
  exact wordOfBytes_byteOfWord v

/-- A byte of the word written reads as the byte of the value (R62). -/
theorem Memory.readByte_writeWord_same (m : Memory) (a : Nat) (v : Word) (k : Nat) (hk : k < 4) (h : m.wf) :
    (m.writeWord a v).readByte (byteKey a k) = byteOfWord v k := by
  have h0 := Memory.pairwise_writeByte m (byteKey a 0) (byteOfWord v 0) h.1
  have h1 := Memory.pairwise_writeByte _ (byteKey a 1) (byteOfWord v 1) h0
  have h2 := Memory.pairwise_writeByte _ (byteKey a 2) (byteOfWord v 2) h1
  have e : ∀ i j, i ≠ j → byteKey a i ≠ byteKey a j := by intro i j hij; unfold byteKey; omega
  unfold Memory.writeWord
  interval_cases k
  · rw [Memory.readByte_writeByte_other _ _ _ _ (e _ _ (by decide)), Memory.readByte_writeByte_other _ _ _ _ (e _ _ (by decide)),
      Memory.readByte_writeByte_other _ _ _ _ (e _ _ (by decide)), Memory.readByte_writeByte_same _ _ _ h.1]
  · rw [Memory.readByte_writeByte_other _ _ _ _ (e _ _ (by decide)), Memory.readByte_writeByte_other _ _ _ _ (e _ _ (by decide)),
      Memory.readByte_writeByte_same _ _ _ h0]
  · rw [Memory.readByte_writeByte_other _ _ _ _ (e _ _ (by decide)), Memory.readByte_writeByte_same _ _ _ h1]
  · rw [Memory.readByte_writeByte_same _ _ _ h2]

/-- Clearing RAM keeps the canonical form. -/
theorem Memory.wf_clearRam (m : Memory) (h : m.wf) : m.clearRam.wf :=
  ⟨h.1.filter _, fun c hc => h.2 c (List.mem_of_mem_filter hc)⟩

/-- Clearing RAM leaves every byte of ROM as it is (R300). -/
theorem Memory.readByte_clearRam_rom (m : Memory) (key : Nat) (h : romFirstCell ≤ key) :
    m.clearRam.readByte key = m.readByte key := by
  induction m with
  | nil => rfl
  | cons c m ih =>
    obtain ⟨k, v⟩ := c
    simp only [Memory.clearRam] at ih
    simp only [Memory.clearRam, List.filter_cons]
    by_cases hk : romFirstCell ≤ k
    · simp only [hk, decide_true, if_true, Memory.readByte]
      rw [ih]
    · simp only [hk, decide_false, Memory.readByte, Bool.false_eq_true, if_false]
      rw [ih, if_neg (by omega)]

/-- Clearing RAM leaves nothing listed below ROM (R52). -/
theorem Memory.readByte_clearRam_ram (m : Memory) (key : Nat) (h : key < romFirstCell) :
    m.clearRam.readByte key = unwrittenByte := by
  induction m with
  | nil => rfl
  | cons c m ih =>
    obtain ⟨k, v⟩ := c
    simp only [Memory.clearRam] at ih
    simp only [Memory.clearRam, List.filter_cons]
    by_cases hk : romFirstCell ≤ k
    · simp only [hk, decide_true, if_true, Memory.readByte]
      rw [ih, if_neg (by omega)]
    · simp only [hk, decide_false, Bool.false_eq_true, if_false]
      exact ih

/-- A byte of RAM in a memory made of two images is the RAM image's (R7 RAM_INIT). -/
theorem Memory.readByte_ofImages_ram (ram rom : Memory) (key : Nat) (h : key < romFirstCell) :
    (Memory.ofImages ram rom).readByte key = ram.readByte key := by
  unfold Memory.ofImages
  induction ram with
  | nil =>
    refine Memory.readByte_absent _ _ fun c hc => ?_
    have := of_decide_eq_true (List.mem_filter.mp hc).2
    omega
  | cons c m ih =>
    obtain ⟨k, v⟩ := c
    simp only [List.filter_cons]
    by_cases hk : k < romFirstCell
    · simp only [hk, decide_true, if_true, List.cons_append, Memory.readByte]
      rw [ih]
    · simp only [hk, decide_false, Bool.false_eq_true, if_false, Memory.readByte]
      rw [ih, if_neg (by omega)]

/-- A byte of ROM in a memory made of two images is the ROM image's (R7 ROM_IMAGE). -/
theorem Memory.readByte_ofImages_rom (ram rom : Memory) (key : Nat) (h : romFirstCell ≤ key) :
    (Memory.ofImages ram rom).readByte key = rom.readByte key := by
  unfold Memory.ofImages
  induction ram with
  | nil =>
    induction rom with
    | nil => rfl
    | cons c m ih =>
      obtain ⟨k, v⟩ := c
      simp only [List.filter_nil, List.nil_append, List.filter_cons] at ih ⊢
      by_cases hk : romFirstCell ≤ k
      · simp only [hk, decide_true, if_true, Memory.readByte]
        rw [ih]
      · simp only [hk, decide_false, Bool.false_eq_true, if_false, Memory.readByte]
        rw [ih, if_neg (by omega)]
  | cons c m ih =>
    obtain ⟨k, v⟩ := c
    simp only [List.filter_cons]
    by_cases hk : k < romFirstCell
    · simp only [hk, decide_true, if_true, List.cons_append, Memory.readByte]
      rw [ih, if_neg (by omega)]
    · simp only [hk, decide_false, Bool.false_eq_true, if_false]
      exact ih

/-- A memory made of two canonical images is canonical. -/
theorem Memory.wf_ofImages (ram rom : Memory) (h1 : ram.wf) (h2 : rom.wf) : (Memory.ofImages ram rom).wf := by
  refine ⟨List.pairwise_append.mpr ⟨h1.1.filter _, h2.1.filter _, fun c hc d hd => ?_⟩, fun c hc => ?_⟩
  · have hc' := of_decide_eq_true (List.mem_filter.mp hc).2
    have hd' := of_decide_eq_true (List.mem_filter.mp hd).2
    omega
  · rcases List.mem_append.mp hc with hc | hc
    · exact h1.2 c (List.mem_of_mem_filter hc)
    · exact h2.2 c (List.mem_of_mem_filter hc)

end Sys2Proof.Machine
end

