-- ==== Sys2Proof/Laws/State.lean ====
section
/-! SUPPORT. The small lemmas of the state updates: one per field an update leaves alone, and one per field it sets, each true
by rfl. Generated from the list of fields; no later proof needs to unfold an update. -/

namespace Sys2Proof.Machine

@[simp] theorem State.setReg_cfg (s : State) (r : Reg) (v : Word) : (s.setReg r v).cfg = s.cfg := rfl
@[simp] theorem State.setReg_spr (s : State) (r : Reg) (v : Word) : (s.setReg r v).spr = s.spr := rfl
@[simp] theorem State.setReg_pc (s : State) (r : Reg) (v : Word) : (s.setReg r v).pc = s.pc := rfl
@[simp] theorem State.setReg_status (s : State) (r : Reg) (v : Word) : (s.setReg r v).status = s.status := rfl
@[simp] theorem State.setReg_ir (s : State) (r : Reg) (v : Word) : (s.setReg r v).ir = s.ir := rfl
@[simp] theorem State.setReg_countdown (s : State) (r : Reg) (v : Word) : (s.setReg r v).countdown = s.countdown := rfl
@[simp] theorem State.setReg_abus (s : State) (r : Reg) (v : Word) : (s.setReg r v).abus = s.abus := rfl
@[simp] theorem State.setReg_isWrite (s : State) (r : Reg) (v : Word) : (s.setReg r v).isWrite = s.isWrite := rfl
@[simp] theorem State.setReg_dbus (s : State) (r : Reg) (v : Word) : (s.setReg r v).dbus = s.dbus := rfl
@[simp] theorem State.setReg_ticks (s : State) (r : Reg) (v : Word) : (s.setReg r v).ticks = s.ticks := rfl
@[simp] theorem State.setReg_mem (s : State) (r : Reg) (v : Word) : (s.setReg r v).mem = s.mem := rfl
@[simp] theorem State.setReg_timer (s : State) (r : Reg) (v : Word) : (s.setReg r v).timer = s.timer := rfl
@[simp] theorem State.setReg_serial1 (s : State) (r : Reg) (v : Word) : (s.setReg r v).serial1 = s.serial1 := rfl
@[simp] theorem State.setReg_serial2 (s : State) (r : Reg) (v : Word) : (s.setReg r v).serial2 = s.serial2 := rfl
@[simp] theorem State.setReg_parallel (s : State) (r : Reg) (v : Word) : (s.setReg r v).parallel = s.parallel := rfl
@[simp] theorem State.setReg_button (s : State) (r : Reg) (v : Word) : (s.setReg r v).button = s.button := rfl
@[simp] theorem State.setReg_completed (s : State) (r : Reg) (v : Word) : (s.setReg r v).completed = s.completed := rfl
@[simp] theorem State.setReg_sent (s : State) (r : Reg) (v : Word) : (s.setReg r v).sent = s.sent := rfl

@[simp] theorem State.setSreg_cfg (s : State) (k : SReg) (v : Word) : (s.setSreg k v).cfg = s.cfg := rfl
@[simp] theorem State.setSreg_gpr (s : State) (k : SReg) (v : Word) : (s.setSreg k v).gpr = s.gpr := rfl
@[simp] theorem State.setSreg_pc (s : State) (k : SReg) (v : Word) : (s.setSreg k v).pc = s.pc := rfl
@[simp] theorem State.setSreg_status (s : State) (k : SReg) (v : Word) : (s.setSreg k v).status = s.status := rfl
@[simp] theorem State.setSreg_ir (s : State) (k : SReg) (v : Word) : (s.setSreg k v).ir = s.ir := rfl
@[simp] theorem State.setSreg_countdown (s : State) (k : SReg) (v : Word) : (s.setSreg k v).countdown = s.countdown := rfl
@[simp] theorem State.setSreg_abus (s : State) (k : SReg) (v : Word) : (s.setSreg k v).abus = s.abus := rfl
@[simp] theorem State.setSreg_isWrite (s : State) (k : SReg) (v : Word) : (s.setSreg k v).isWrite = s.isWrite := rfl
@[simp] theorem State.setSreg_dbus (s : State) (k : SReg) (v : Word) : (s.setSreg k v).dbus = s.dbus := rfl
@[simp] theorem State.setSreg_ticks (s : State) (k : SReg) (v : Word) : (s.setSreg k v).ticks = s.ticks := rfl
@[simp] theorem State.setSreg_mem (s : State) (k : SReg) (v : Word) : (s.setSreg k v).mem = s.mem := rfl
@[simp] theorem State.setSreg_timer (s : State) (k : SReg) (v : Word) : (s.setSreg k v).timer = s.timer := rfl
@[simp] theorem State.setSreg_serial1 (s : State) (k : SReg) (v : Word) : (s.setSreg k v).serial1 = s.serial1 := rfl
@[simp] theorem State.setSreg_serial2 (s : State) (k : SReg) (v : Word) : (s.setSreg k v).serial2 = s.serial2 := rfl
@[simp] theorem State.setSreg_parallel (s : State) (k : SReg) (v : Word) : (s.setSreg k v).parallel = s.parallel := rfl
@[simp] theorem State.setSreg_button (s : State) (k : SReg) (v : Word) : (s.setSreg k v).button = s.button := rfl
@[simp] theorem State.setSreg_completed (s : State) (k : SReg) (v : Word) : (s.setSreg k v).completed = s.completed := rfl
@[simp] theorem State.setSreg_sent (s : State) (k : SReg) (v : Word) : (s.setSreg k v).sent = s.sent := rfl

@[simp] theorem State.raise_cfg (s : State) (bit : BitVec 16) : (s.raise bit).cfg = s.cfg := rfl
@[simp] theorem State.raise_gpr (s : State) (bit : BitVec 16) : (s.raise bit).gpr = s.gpr := rfl
@[simp] theorem State.raise_spr (s : State) (bit : BitVec 16) : (s.raise bit).spr = s.spr := rfl
@[simp] theorem State.raise_pc (s : State) (bit : BitVec 16) : (s.raise bit).pc = s.pc := rfl
@[simp] theorem State.raise_ir (s : State) (bit : BitVec 16) : (s.raise bit).ir = s.ir := rfl
@[simp] theorem State.raise_countdown (s : State) (bit : BitVec 16) : (s.raise bit).countdown = s.countdown := rfl
@[simp] theorem State.raise_abus (s : State) (bit : BitVec 16) : (s.raise bit).abus = s.abus := rfl
@[simp] theorem State.raise_isWrite (s : State) (bit : BitVec 16) : (s.raise bit).isWrite = s.isWrite := rfl
@[simp] theorem State.raise_dbus (s : State) (bit : BitVec 16) : (s.raise bit).dbus = s.dbus := rfl
@[simp] theorem State.raise_ticks (s : State) (bit : BitVec 16) : (s.raise bit).ticks = s.ticks := rfl
@[simp] theorem State.raise_mem (s : State) (bit : BitVec 16) : (s.raise bit).mem = s.mem := rfl
@[simp] theorem State.raise_timer (s : State) (bit : BitVec 16) : (s.raise bit).timer = s.timer := rfl
@[simp] theorem State.raise_serial1 (s : State) (bit : BitVec 16) : (s.raise bit).serial1 = s.serial1 := rfl
@[simp] theorem State.raise_serial2 (s : State) (bit : BitVec 16) : (s.raise bit).serial2 = s.serial2 := rfl
@[simp] theorem State.raise_parallel (s : State) (bit : BitVec 16) : (s.raise bit).parallel = s.parallel := rfl
@[simp] theorem State.raise_button (s : State) (bit : BitVec 16) : (s.raise bit).button = s.button := rfl
@[simp] theorem State.raise_completed (s : State) (bit : BitVec 16) : (s.raise bit).completed = s.completed := rfl
@[simp] theorem State.raise_sent (s : State) (bit : BitVec 16) : (s.raise bit).sent = s.sent := rfl

@[simp] theorem State.complete_cfg (s : State) : s.complete.cfg = s.cfg := rfl
@[simp] theorem State.complete_gpr (s : State) : s.complete.gpr = s.gpr := rfl
@[simp] theorem State.complete_pc (s : State) : s.complete.pc = s.pc := rfl
@[simp] theorem State.complete_status (s : State) : s.complete.status = s.status := rfl
@[simp] theorem State.complete_ir (s : State) : s.complete.ir = s.ir := rfl
@[simp] theorem State.complete_countdown (s : State) : s.complete.countdown = s.countdown := rfl
@[simp] theorem State.complete_abus (s : State) : s.complete.abus = s.abus := rfl
@[simp] theorem State.complete_isWrite (s : State) : s.complete.isWrite = s.isWrite := rfl
@[simp] theorem State.complete_dbus (s : State) : s.complete.dbus = s.dbus := rfl
@[simp] theorem State.complete_ticks (s : State) : s.complete.ticks = s.ticks := rfl
@[simp] theorem State.complete_mem (s : State) : s.complete.mem = s.mem := rfl
@[simp] theorem State.complete_timer (s : State) : s.complete.timer = s.timer := rfl
@[simp] theorem State.complete_serial1 (s : State) : s.complete.serial1 = s.serial1 := rfl
@[simp] theorem State.complete_serial2 (s : State) : s.complete.serial2 = s.serial2 := rfl
@[simp] theorem State.complete_parallel (s : State) : s.complete.parallel = s.parallel := rfl
@[simp] theorem State.complete_button (s : State) : s.complete.button = s.button := rfl
@[simp] theorem State.complete_completed (s : State) : s.complete.completed = s.completed := rfl
@[simp] theorem State.complete_sent (s : State) : s.complete.sent = s.sent := rfl

@[simp] theorem State.link_cfg (s : State) : s.link.cfg = s.cfg := rfl
@[simp] theorem State.link_spr (s : State) : s.link.spr = s.spr := rfl
@[simp] theorem State.link_pc (s : State) : s.link.pc = s.pc := rfl
@[simp] theorem State.link_status (s : State) : s.link.status = s.status := rfl
@[simp] theorem State.link_ir (s : State) : s.link.ir = s.ir := rfl
@[simp] theorem State.link_countdown (s : State) : s.link.countdown = s.countdown := rfl
@[simp] theorem State.link_abus (s : State) : s.link.abus = s.abus := rfl
@[simp] theorem State.link_isWrite (s : State) : s.link.isWrite = s.isWrite := rfl
@[simp] theorem State.link_dbus (s : State) : s.link.dbus = s.dbus := rfl
@[simp] theorem State.link_ticks (s : State) : s.link.ticks = s.ticks := rfl
@[simp] theorem State.link_mem (s : State) : s.link.mem = s.mem := rfl
@[simp] theorem State.link_timer (s : State) : s.link.timer = s.timer := rfl
@[simp] theorem State.link_serial1 (s : State) : s.link.serial1 = s.serial1 := rfl
@[simp] theorem State.link_serial2 (s : State) : s.link.serial2 = s.serial2 := rfl
@[simp] theorem State.link_parallel (s : State) : s.link.parallel = s.parallel := rfl
@[simp] theorem State.link_button (s : State) : s.link.button = s.button := rfl
@[simp] theorem State.link_completed (s : State) : s.link.completed = s.completed := rfl
@[simp] theorem State.link_sent (s : State) : s.link.sent = s.sent := rfl

@[simp] theorem State.occupy_cfg (s : State) (n : Nat) : (s.occupy n).cfg = s.cfg := rfl
@[simp] theorem State.occupy_gpr (s : State) (n : Nat) : (s.occupy n).gpr = s.gpr := rfl
@[simp] theorem State.occupy_spr (s : State) (n : Nat) : (s.occupy n).spr = s.spr := rfl
@[simp] theorem State.occupy_pc (s : State) (n : Nat) : (s.occupy n).pc = s.pc := rfl
@[simp] theorem State.occupy_status (s : State) (n : Nat) : (s.occupy n).status = s.status := rfl
@[simp] theorem State.occupy_ir (s : State) (n : Nat) : (s.occupy n).ir = s.ir := rfl
@[simp] theorem State.occupy_abus (s : State) (n : Nat) : (s.occupy n).abus = s.abus := rfl
@[simp] theorem State.occupy_isWrite (s : State) (n : Nat) : (s.occupy n).isWrite = s.isWrite := rfl
@[simp] theorem State.occupy_dbus (s : State) (n : Nat) : (s.occupy n).dbus = s.dbus := rfl
@[simp] theorem State.occupy_ticks (s : State) (n : Nat) : (s.occupy n).ticks = s.ticks := rfl
@[simp] theorem State.occupy_mem (s : State) (n : Nat) : (s.occupy n).mem = s.mem := rfl
@[simp] theorem State.occupy_timer (s : State) (n : Nat) : (s.occupy n).timer = s.timer := rfl
@[simp] theorem State.occupy_serial1 (s : State) (n : Nat) : (s.occupy n).serial1 = s.serial1 := rfl
@[simp] theorem State.occupy_serial2 (s : State) (n : Nat) : (s.occupy n).serial2 = s.serial2 := rfl
@[simp] theorem State.occupy_parallel (s : State) (n : Nat) : (s.occupy n).parallel = s.parallel := rfl
@[simp] theorem State.occupy_button (s : State) (n : Nat) : (s.occupy n).button = s.button := rfl
@[simp] theorem State.occupy_completed (s : State) (n : Nat) : (s.occupy n).completed = s.completed := rfl
@[simp] theorem State.occupy_sent (s : State) (n : Nat) : (s.occupy n).sent = s.sent := rfl

@[simp] theorem State.refreshStatus_cfg (s : State) : s.refreshStatus.cfg = s.cfg := rfl
@[simp] theorem State.refreshStatus_gpr (s : State) : s.refreshStatus.gpr = s.gpr := rfl
@[simp] theorem State.refreshStatus_spr (s : State) : s.refreshStatus.spr = s.spr := rfl
@[simp] theorem State.refreshStatus_pc (s : State) : s.refreshStatus.pc = s.pc := rfl
@[simp] theorem State.refreshStatus_ir (s : State) : s.refreshStatus.ir = s.ir := rfl
@[simp] theorem State.refreshStatus_countdown (s : State) : s.refreshStatus.countdown = s.countdown := rfl
@[simp] theorem State.refreshStatus_abus (s : State) : s.refreshStatus.abus = s.abus := rfl
@[simp] theorem State.refreshStatus_isWrite (s : State) : s.refreshStatus.isWrite = s.isWrite := rfl
@[simp] theorem State.refreshStatus_dbus (s : State) : s.refreshStatus.dbus = s.dbus := rfl
@[simp] theorem State.refreshStatus_ticks (s : State) : s.refreshStatus.ticks = s.ticks := rfl
@[simp] theorem State.refreshStatus_mem (s : State) : s.refreshStatus.mem = s.mem := rfl
@[simp] theorem State.refreshStatus_timer (s : State) : s.refreshStatus.timer = s.timer := rfl
@[simp] theorem State.refreshStatus_serial1 (s : State) : s.refreshStatus.serial1 = s.serial1 := rfl
@[simp] theorem State.refreshStatus_serial2 (s : State) : s.refreshStatus.serial2 = s.serial2 := rfl
@[simp] theorem State.refreshStatus_parallel (s : State) : s.refreshStatus.parallel = s.parallel := rfl
@[simp] theorem State.refreshStatus_button (s : State) : s.refreshStatus.button = s.button := rfl
@[simp] theorem State.refreshStatus_completed (s : State) : s.refreshStatus.completed = s.completed := rfl
@[simp] theorem State.refreshStatus_sent (s : State) : s.refreshStatus.sent = s.sent := rfl

@[simp] theorem State.setSerial_cfg (s : State) (p : Port) (v : Serial) : (s.setSerial p v).cfg = s.cfg := rfl
@[simp] theorem State.setSerial_gpr (s : State) (p : Port) (v : Serial) : (s.setSerial p v).gpr = s.gpr := rfl
@[simp] theorem State.setSerial_spr (s : State) (p : Port) (v : Serial) : (s.setSerial p v).spr = s.spr := rfl
@[simp] theorem State.setSerial_pc (s : State) (p : Port) (v : Serial) : (s.setSerial p v).pc = s.pc := rfl
@[simp] theorem State.setSerial_status (s : State) (p : Port) (v : Serial) : (s.setSerial p v).status = s.status := rfl
@[simp] theorem State.setSerial_ir (s : State) (p : Port) (v : Serial) : (s.setSerial p v).ir = s.ir := rfl
@[simp] theorem State.setSerial_countdown (s : State) (p : Port) (v : Serial) : (s.setSerial p v).countdown = s.countdown := rfl
@[simp] theorem State.setSerial_abus (s : State) (p : Port) (v : Serial) : (s.setSerial p v).abus = s.abus := rfl
@[simp] theorem State.setSerial_isWrite (s : State) (p : Port) (v : Serial) : (s.setSerial p v).isWrite = s.isWrite := rfl
@[simp] theorem State.setSerial_dbus (s : State) (p : Port) (v : Serial) : (s.setSerial p v).dbus = s.dbus := rfl
@[simp] theorem State.setSerial_ticks (s : State) (p : Port) (v : Serial) : (s.setSerial p v).ticks = s.ticks := rfl
@[simp] theorem State.setSerial_mem (s : State) (p : Port) (v : Serial) : (s.setSerial p v).mem = s.mem := rfl
@[simp] theorem State.setSerial_timer (s : State) (p : Port) (v : Serial) : (s.setSerial p v).timer = s.timer := rfl
@[simp] theorem State.setSerial_parallel (s : State) (p : Port) (v : Serial) : (s.setSerial p v).parallel = s.parallel := rfl
@[simp] theorem State.setSerial_button (s : State) (p : Port) (v : Serial) : (s.setSerial p v).button = s.button := rfl
@[simp] theorem State.setSerial_completed (s : State) (p : Port) (v : Serial) : (s.setSerial p v).completed = s.completed := rfl
@[simp] theorem State.setSerial_sent (s : State) (p : Port) (v : Serial) : (s.setSerial p v).sent = s.sent := rfl

@[simp] theorem jumpTo_cfg (target : Addr) (s : State) : (jumpTo target s).cfg = s.cfg := rfl
@[simp] theorem jumpTo_gpr (target : Addr) (s : State) : (jumpTo target s).gpr = s.gpr := rfl
@[simp] theorem jumpTo_status (target : Addr) (s : State) : (jumpTo target s).status = s.status := rfl
@[simp] theorem jumpTo_ir (target : Addr) (s : State) : (jumpTo target s).ir = s.ir := rfl
@[simp] theorem jumpTo_countdown (target : Addr) (s : State) : (jumpTo target s).countdown = s.countdown := rfl
@[simp] theorem jumpTo_abus (target : Addr) (s : State) : (jumpTo target s).abus = s.abus := rfl
@[simp] theorem jumpTo_isWrite (target : Addr) (s : State) : (jumpTo target s).isWrite = s.isWrite := rfl
@[simp] theorem jumpTo_dbus (target : Addr) (s : State) : (jumpTo target s).dbus = s.dbus := rfl
@[simp] theorem jumpTo_ticks (target : Addr) (s : State) : (jumpTo target s).ticks = s.ticks := rfl
@[simp] theorem jumpTo_mem (target : Addr) (s : State) : (jumpTo target s).mem = s.mem := rfl
@[simp] theorem jumpTo_timer (target : Addr) (s : State) : (jumpTo target s).timer = s.timer := rfl
@[simp] theorem jumpTo_serial1 (target : Addr) (s : State) : (jumpTo target s).serial1 = s.serial1 := rfl
@[simp] theorem jumpTo_serial2 (target : Addr) (s : State) : (jumpTo target s).serial2 = s.serial2 := rfl
@[simp] theorem jumpTo_parallel (target : Addr) (s : State) : (jumpTo target s).parallel = s.parallel := rfl
@[simp] theorem jumpTo_button (target : Addr) (s : State) : (jumpTo target s).button = s.button := rfl
@[simp] theorem jumpTo_completed (target : Addr) (s : State) : (jumpTo target s).completed = s.completed := rfl
@[simp] theorem jumpTo_sent (target : Addr) (s : State) : (jumpTo target s).sent = s.sent := rfl

@[simp] theorem exceptionEntry_cfg (p : BitVec 16) (s : State) : (exceptionEntry p s).cfg = s.cfg := rfl
@[simp] theorem exceptionEntry_gpr (p : BitVec 16) (s : State) : (exceptionEntry p s).gpr = s.gpr := rfl
@[simp] theorem exceptionEntry_ir (p : BitVec 16) (s : State) : (exceptionEntry p s).ir = s.ir := rfl
@[simp] theorem exceptionEntry_countdown (p : BitVec 16) (s : State) : (exceptionEntry p s).countdown = s.countdown := rfl
@[simp] theorem exceptionEntry_abus (p : BitVec 16) (s : State) : (exceptionEntry p s).abus = s.abus := rfl
@[simp] theorem exceptionEntry_isWrite (p : BitVec 16) (s : State) : (exceptionEntry p s).isWrite = s.isWrite := rfl
@[simp] theorem exceptionEntry_dbus (p : BitVec 16) (s : State) : (exceptionEntry p s).dbus = s.dbus := rfl
@[simp] theorem exceptionEntry_ticks (p : BitVec 16) (s : State) : (exceptionEntry p s).ticks = s.ticks := rfl
@[simp] theorem exceptionEntry_mem (p : BitVec 16) (s : State) : (exceptionEntry p s).mem = s.mem := rfl
@[simp] theorem exceptionEntry_timer (p : BitVec 16) (s : State) : (exceptionEntry p s).timer = s.timer := rfl
@[simp] theorem exceptionEntry_serial1 (p : BitVec 16) (s : State) : (exceptionEntry p s).serial1 = s.serial1 := rfl
@[simp] theorem exceptionEntry_serial2 (p : BitVec 16) (s : State) : (exceptionEntry p s).serial2 = s.serial2 := rfl
@[simp] theorem exceptionEntry_parallel (p : BitVec 16) (s : State) : (exceptionEntry p s).parallel = s.parallel := rfl
@[simp] theorem exceptionEntry_button (p : BitVec 16) (s : State) : (exceptionEntry p s).button = s.button := rfl
@[simp] theorem exceptionEntry_completed (p : BitVec 16) (s : State) : (exceptionEntry p s).completed = s.completed := rfl
@[simp] theorem exceptionEntry_sent (p : BitVec 16) (s : State) : (exceptionEntry p s).sent = s.sent := rfl

@[simp] theorem returnFromException_cfg (s : State) : (returnFromException s).cfg = s.cfg := rfl
@[simp] theorem returnFromException_status (s : State) : (returnFromException s).status = s.status := rfl
@[simp] theorem returnFromException_ir (s : State) : (returnFromException s).ir = s.ir := rfl
@[simp] theorem returnFromException_countdown (s : State) : (returnFromException s).countdown = s.countdown := rfl
@[simp] theorem returnFromException_abus (s : State) : (returnFromException s).abus = s.abus := rfl
@[simp] theorem returnFromException_isWrite (s : State) : (returnFromException s).isWrite = s.isWrite := rfl
@[simp] theorem returnFromException_dbus (s : State) : (returnFromException s).dbus = s.dbus := rfl
@[simp] theorem returnFromException_ticks (s : State) : (returnFromException s).ticks = s.ticks := rfl
@[simp] theorem returnFromException_mem (s : State) : (returnFromException s).mem = s.mem := rfl
@[simp] theorem returnFromException_timer (s : State) : (returnFromException s).timer = s.timer := rfl
@[simp] theorem returnFromException_serial1 (s : State) : (returnFromException s).serial1 = s.serial1 := rfl
@[simp] theorem returnFromException_serial2 (s : State) : (returnFromException s).serial2 = s.serial2 := rfl
@[simp] theorem returnFromException_parallel (s : State) : (returnFromException s).parallel = s.parallel := rfl
@[simp] theorem returnFromException_button (s : State) : (returnFromException s).button = s.button := rfl
@[simp] theorem returnFromException_completed (s : State) : (returnFromException s).completed = s.completed := rfl
@[simp] theorem returnFromException_sent (s : State) : (returnFromException s).sent = s.sent := rfl

@[simp] theorem beginTick_cfg (s : State) : (beginTick s).cfg = s.cfg := rfl
@[simp] theorem beginTick_gpr (s : State) : (beginTick s).gpr = s.gpr := rfl
@[simp] theorem beginTick_pc (s : State) : (beginTick s).pc = s.pc := rfl
@[simp] theorem beginTick_status (s : State) : (beginTick s).status = s.status := rfl
@[simp] theorem beginTick_ir (s : State) : (beginTick s).ir = s.ir := rfl
@[simp] theorem beginTick_countdown (s : State) : (beginTick s).countdown = s.countdown := rfl
@[simp] theorem beginTick_abus (s : State) : (beginTick s).abus = s.abus := rfl
@[simp] theorem beginTick_isWrite (s : State) : (beginTick s).isWrite = s.isWrite := rfl
@[simp] theorem beginTick_dbus (s : State) : (beginTick s).dbus = s.dbus := rfl
@[simp] theorem beginTick_mem (s : State) : (beginTick s).mem = s.mem := rfl
@[simp] theorem beginTick_timer (s : State) : (beginTick s).timer = s.timer := rfl
@[simp] theorem beginTick_serial1 (s : State) : (beginTick s).serial1 = s.serial1 := rfl
@[simp] theorem beginTick_serial2 (s : State) : (beginTick s).serial2 = s.serial2 := rfl
@[simp] theorem beginTick_parallel (s : State) : (beginTick s).parallel = s.parallel := rfl
@[simp] theorem beginTick_button (s : State) : (beginTick s).button = s.button := rfl

@[simp] theorem countDown_cfg (s : State) : (countDown s).cfg = s.cfg := rfl
@[simp] theorem countDown_gpr (s : State) : (countDown s).gpr = s.gpr := rfl
@[simp] theorem countDown_spr (s : State) : (countDown s).spr = s.spr := rfl
@[simp] theorem countDown_pc (s : State) : (countDown s).pc = s.pc := rfl
@[simp] theorem countDown_status (s : State) : (countDown s).status = s.status := rfl
@[simp] theorem countDown_ir (s : State) : (countDown s).ir = s.ir := rfl
@[simp] theorem countDown_abus (s : State) : (countDown s).abus = s.abus := rfl
@[simp] theorem countDown_isWrite (s : State) : (countDown s).isWrite = s.isWrite := rfl
@[simp] theorem countDown_dbus (s : State) : (countDown s).dbus = s.dbus := rfl
@[simp] theorem countDown_ticks (s : State) : (countDown s).ticks = s.ticks := rfl
@[simp] theorem countDown_mem (s : State) : (countDown s).mem = s.mem := rfl
@[simp] theorem countDown_timer (s : State) : (countDown s).timer = s.timer := rfl
@[simp] theorem countDown_serial1 (s : State) : (countDown s).serial1 = s.serial1 := rfl
@[simp] theorem countDown_serial2 (s : State) : (countDown s).serial2 = s.serial2 := rfl
@[simp] theorem countDown_parallel (s : State) : (countDown s).parallel = s.parallel := rfl
@[simp] theorem countDown_button (s : State) : (countDown s).button = s.button := rfl
@[simp] theorem countDown_completed (s : State) : (countDown s).completed = s.completed := rfl
@[simp] theorem countDown_sent (s : State) : (countDown s).sent = s.sent := rfl

@[simp] theorem State.tickDevices_cfg (s : State) : s.tickDevices.cfg = s.cfg := rfl
@[simp] theorem State.tickDevices_gpr (s : State) : s.tickDevices.gpr = s.gpr := rfl
@[simp] theorem State.tickDevices_spr (s : State) : s.tickDevices.spr = s.spr := rfl
@[simp] theorem State.tickDevices_pc (s : State) : s.tickDevices.pc = s.pc := rfl
@[simp] theorem State.tickDevices_status (s : State) : s.tickDevices.status = s.status := rfl
@[simp] theorem State.tickDevices_ir (s : State) : s.tickDevices.ir = s.ir := rfl
@[simp] theorem State.tickDevices_countdown (s : State) : s.tickDevices.countdown = s.countdown := rfl
@[simp] theorem State.tickDevices_abus (s : State) : s.tickDevices.abus = s.abus := rfl
@[simp] theorem State.tickDevices_isWrite (s : State) : s.tickDevices.isWrite = s.isWrite := rfl
@[simp] theorem State.tickDevices_dbus (s : State) : s.tickDevices.dbus = s.dbus := rfl
@[simp] theorem State.tickDevices_ticks (s : State) : s.tickDevices.ticks = s.ticks := rfl
@[simp] theorem State.tickDevices_mem (s : State) : s.tickDevices.mem = s.mem := rfl
@[simp] theorem State.tickDevices_parallel (s : State) : s.tickDevices.parallel = s.parallel := rfl
@[simp] theorem State.tickDevices_button (s : State) : s.tickDevices.button = s.button := rfl
@[simp] theorem State.tickDevices_completed (s : State) : s.tickDevices.completed = s.completed := rfl

@[simp] theorem finishTick_cfg (c : Bool) (s : State) : (finishTick c s).cfg = s.cfg := rfl
@[simp] theorem finishTick_gpr (c : Bool) (s : State) : (finishTick c s).gpr = s.gpr := rfl
@[simp] theorem finishTick_spr (c : Bool) (s : State) : (finishTick c s).spr = s.spr := rfl
@[simp] theorem finishTick_pc (c : Bool) (s : State) : (finishTick c s).pc = s.pc := rfl
@[simp] theorem finishTick_status (c : Bool) (s : State) : (finishTick c s).status = s.status := rfl
@[simp] theorem finishTick_ir (c : Bool) (s : State) : (finishTick c s).ir = s.ir := rfl
@[simp] theorem finishTick_countdown (c : Bool) (s : State) : (finishTick c s).countdown = s.countdown := rfl
@[simp] theorem finishTick_abus (c : Bool) (s : State) : (finishTick c s).abus = s.abus := rfl
@[simp] theorem finishTick_isWrite (c : Bool) (s : State) : (finishTick c s).isWrite = s.isWrite := rfl
@[simp] theorem finishTick_dbus (c : Bool) (s : State) : (finishTick c s).dbus = s.dbus := rfl
@[simp] theorem finishTick_ticks (c : Bool) (s : State) : (finishTick c s).ticks = s.ticks := rfl
@[simp] theorem finishTick_mem (c : Bool) (s : State) : (finishTick c s).mem = s.mem := rfl
@[simp] theorem finishTick_parallel (c : Bool) (s : State) : (finishTick c s).parallel = s.parallel := rfl
@[simp] theorem finishTick_button (c : Bool) (s : State) : (finishTick c s).button = s.button := rfl

@[simp] theorem State.raise_status (s : State) (bit : BitVec 16) : (s.raise bit).status = s.status ||| bit := rfl
@[simp] theorem State.occupy_countdown (s : State) (n : Nat) : (s.occupy n).countdown = n - 1 := rfl
@[simp] theorem jumpTo_pc (target : Addr) (s : State) : (jumpTo target s).pc = target := rfl
@[simp] theorem exceptionEntry_pc (p : BitVec 16) (s : State) : (exceptionEntry p s).pc = a20 (s.sreg evecSlot) := rfl
@[simp] theorem exceptionEntry_status (p : BitVec 16) (s : State) : (exceptionEntry p s).status = 0#16 := rfl
@[simp] theorem returnFromException_pc (s : State) : (returnFromException s).pc = a20 (s.sreg earSlot) := rfl
@[simp] theorem beginTick_ticks (s : State) : (beginTick s).ticks = s.ticks + 1 := rfl
@[simp] theorem beginTick_completed (s : State) : (beginTick s).completed = false := rfl
@[simp] theorem beginTick_sent (s : State) : (beginTick s).sent = [] := rfl
@[simp] theorem countDown_countdown (s : State) : (countDown s).countdown = s.countdown - 1 := rfl
@[simp] theorem finishTick_completed (c : Bool) (s : State) : (finishTick c s).completed = c := rfl
@[simp] theorem finishTick_timer (c : Bool) (s : State) : (finishTick c s).timer = s.timer.tick s.cfg.timerDiv := rfl
@[simp] theorem finishTick_serial1 (c : Bool) (s : State) : (finishTick c s).serial1 = s.serial1.tick.1 := rfl
@[simp] theorem finishTick_serial2 (c : Bool) (s : State) : (finishTick c s).serial2 = s.serial2.tick.1 := rfl
@[simp] theorem finishTick_sent (c : Bool) (s : State) :
    (finishTick c s).sent = txEvents .one s.serial1.tick.2 ++ txEvents .two s.serial2.tick.2 := rfl
@[simp] theorem State.setSerial_serial_same (s : State) (p : Port) (v : Serial) : (s.setSerial p v).serial p = v := by
  cases p <;> rfl

end Sys2Proof.Machine
end

