-- ==== Sys2Proof/Laws/Operands.lean ====
section
/-! SUPPORT. Reading a register after an update, for both register files, through every operation that writes one. -/

namespace Sys2Proof.Machine

@[simp] theorem State.reg_zero (s : State) : s.reg 0#4 = 0#32 := rfl

/-- Two states with the same register file read the same. -/
theorem State.reg_congr {s t : State} (h : t.gpr = s.gpr) (r : Reg) : t.reg r = s.reg r := by
  simp [State.reg, h]

/-- Two states with the same special register file read the same. -/
theorem State.sreg_congr {s t : State} (h : t.spr = s.spr) (k : SReg) : t.sreg k = s.sreg k := by
  simp [State.sreg, h]

/-- A general register after a write of one (R21). -/
theorem State.reg_setReg (s : State) (r q : Reg) (v : Word) :
    (s.setReg r v).reg q = if q = r ∧ q ≠ 0#4 then v else s.reg q := by
  unfold State.reg State.setReg
  by_cases hq : q = 0#4
  · simp [hq]
  · by_cases hr : r = 0#4
    · have : ¬ q = r := by rw [hr]; exact hq
      simp [hq, hr]
    · by_cases h : q = r
      · subst h; simp [hq]
      · have : r.toNat ≠ q.toNat := fun e => h (BitVec.eq_of_toNat_eq e.symm)
        simp [hq, hr, h, Vector.getElem_set_ne _ _ this]

/-- A special register after a write of one (R24). -/
theorem State.sreg_setSreg (s : State) (k q : SReg) (v : Word) :
    (s.setSreg k v).sreg q = if q = k then v else s.sreg q := by
  unfold State.sreg State.setSreg
  by_cases h : q = k
  · subst h; simp
  · have : k.toNat ≠ q.toNat := fun e => h (BitVec.eq_of_toNat_eq e.symm)
    simp [h, Vector.getElem_set_ne _ _ this]

@[simp] theorem State.sreg_setReg (s : State) (r : Reg) (k : SReg) (v : Word) : (s.setReg r v).sreg k = s.sreg k := rfl
@[simp] theorem State.reg_setSreg (s : State) (k : SReg) (r : Reg) (v : Word) : (s.setSreg k v).reg r = s.reg r := rfl
@[simp] theorem State.reg_raise (s : State) (b : BitVec 16) (r : Reg) : (s.raise b).reg r = s.reg r := rfl
@[simp] theorem State.sreg_raise (s : State) (b : BitVec 16) (k : SReg) : (s.raise b).sreg k = s.sreg k := rfl
@[simp] theorem State.reg_complete (s : State) (r : Reg) : s.complete.reg r = s.reg r := rfl
@[simp] theorem State.reg_occupy (s : State) (n : Nat) (r : Reg) : (s.occupy n).reg r = s.reg r := rfl
@[simp] theorem State.sreg_occupy (s : State) (n : Nat) (k : SReg) : (s.occupy n).sreg k = s.sreg k := rfl
@[simp] theorem State.reg_refreshStatus (s : State) (r : Reg) : s.refreshStatus.reg r = s.reg r := rfl
@[simp] theorem State.sreg_refreshStatus (s : State) (k : SReg) : s.refreshStatus.sreg k = s.sreg k := rfl
@[simp] theorem State.sreg_link (s : State) (k : SReg) : s.link.sreg k = s.sreg k := rfl
@[simp] theorem State.reg_setSerial (s : State) (p : Port) (v : Serial) (r : Reg) : (s.setSerial p v).reg r = s.reg r := rfl
@[simp] theorem State.sreg_setSerial (s : State) (p : Port) (v : Serial) (k : SReg) : (s.setSerial p v).sreg k = s.sreg k := rfl
@[simp] theorem jumpTo_reg (a : Addr) (s : State) (r : Reg) : (jumpTo a s).reg r = s.reg r := rfl
@[simp] theorem exceptionEntry_reg (p : BitVec 16) (s : State) (r : Reg) : (exceptionEntry p s).reg r = s.reg r := rfl
@[simp] theorem beginTick_reg (s : State) (r : Reg) : (beginTick s).reg r = s.reg r := rfl
@[simp] theorem countDown_reg (s : State) (r : Reg) : (countDown s).reg r = s.reg r := rfl
@[simp] theorem countDown_sreg (s : State) (k : SReg) : (countDown s).sreg k = s.sreg k := rfl
@[simp] theorem finishTick_reg (c : Bool) (s : State) (r : Reg) : (finishTick c s).reg r = s.reg r := rfl
@[simp] theorem finishTick_sreg (c : Bool) (s : State) (k : SReg) : (finishTick c s).sreg k = s.sreg k := rfl

/-- A special register after an instruction completes: `icount` counts it (R323). -/
theorem State.sreg_complete (s : State) (k : SReg) :
    s.complete.sreg k = if k = icountSlot then s.sreg icountSlot + 1#32 else s.sreg k :=
  State.sreg_setSreg s icountSlot k _

/-- A special register after a jump (R200, R323). -/
theorem jumpTo_sreg (a : Addr) (s : State) (k : SReg) :
    (jumpTo a s).sreg k = if k = icountSlot then s.sreg icountSlot + 1#32 else s.sreg k :=
  State.sreg_complete _ k

/-- A general register after the link (R203). -/
theorem State.reg_link (s : State) (r : Reg) : s.link.reg r = if r = linkReg then zext20 s.pc else s.reg r := by
  unfold State.link
  rw [State.reg_setReg]
  by_cases h : r = linkReg
  · subst h; simp [linkReg]
  · simp [h]

/-- A special register after the start of a tick: `ccount` counts it (R29). -/
theorem beginTick_sreg (s : State) (k : SReg) :
    (beginTick s).sreg k = if k = ccountSlot then s.sreg ccountSlot + 1#32 else s.sreg k :=
  State.sreg_setSreg _ ccountSlot k _

/-- A special register after exception entry (R241). -/
theorem exceptionEntry_sreg (p : BitVec 16) (s : State) (k : SReg) :
    (exceptionEntry p s).sreg k =
      if k = estatSlot then p.setWidth 32
      else if k = ersSlot then s.reg savedReg
      else if k = earSlot then zext20 s.pc
      else if k = cctrlSlot then entryCctrl (s.sreg cctrlSlot)
      else s.sreg k := by
  have : (exceptionEntry p s).sreg k =
      ((((s.setSreg cctrlSlot (entryCctrl (s.sreg cctrlSlot))).setSreg earSlot (zext20 s.pc)).setSreg ersSlot
        (s.reg savedReg)).setSreg estatSlot (p.setWidth 32)).sreg k := rfl
  rw [this]
  simp only [State.sreg_setSreg]

/-- A special register after a return from exception (R222). -/
theorem returnFromException_sreg (s : State) (k : SReg) :
    (returnFromException s).sreg k = if k = cctrlSlot then returnCctrl (s.sreg cctrlSlot) else s.sreg k :=
  State.sreg_setSreg s cctrlSlot k _

/-- A general register after a return from exception (R222). -/
theorem returnFromException_reg (s : State) (r : Reg) :
    (returnFromException s).reg r = if r = savedReg then s.sreg ersSlot else s.reg r := by
  have h : (returnFromException s).reg r =
      ((s.setSreg cctrlSlot (returnCctrl (s.sreg cctrlSlot))).setReg savedReg (s.sreg ersSlot)).reg r := rfl
  rw [h, State.reg_setReg]
  by_cases hr : r = savedReg
  · subst hr; simp [savedReg]
  · simp [hr]

end Sys2Proof.Machine
end

