-- ==== Sys2Proof/Laws/Ops.lean ====
section
/-! SUPPORT. One lemma per shared operation that says once what it can do: which addresses are answered, what a bus
transaction changes, what translation answers, what each access does. -/

namespace Sys2Proof.Machine

/-- The offset of an answered address lies inside its window, and the address is the window's base plus the offset (R65). -/
theorem answering_cases {v : ParallelVariant} {a : Nat} {d : Device} {o : Nat} (h : answering v a = some (d, o)) :
    (d = .ram ∧ a = o ∧ o < ramLength) ∨
    (d = .serial .one ∧ a = 0x70000 + o ∧ o < 5) ∨
    (d = .serial .two ∧ a = 0x71000 + o ∧ o < 5) ∨
    (d = .timer ∧ a = 0x72000 + o ∧ o < 4) ∨
    (d = .parallel ∧ a = 0x73000 + o ∧ o < v.length) ∨
    (d = .button ∧ a = 0x7F000 + o ∧ o < 1) ∨
    (d = .rom ∧ a = romBase + o ∧ o < romLength) := by
  unfold answering at h
  split at h
  · rename_i w hw
    have hmem := List.mem_of_find?_eq_some hw
    have hhold := List.find?_some hw
    simp only [Window.holds, Bool.and_eq_true, decide_eq_true_eq] at hhold
    simp only [Option.some.injEq, Prod.mk.injEq] at h
    obtain ⟨rfl, rfl⟩ := h
    simp only [addressMap, List.mem_cons, List.not_mem_nil, or_false] at hmem
    rcases hmem with rfl | rfl | rfl | rfl | rfl | rfl | rfl <;> simp only at hhold <;> simp <;> omega
  · simp at h

/-- A RAM address is answered by RAM (R65). -/
theorem answering_ram (v : ParallelVariant) (a : Nat) (h : a < ramLength) : answering v a = some (.ram, a) := by
  have : (addressMap v).find? (fun w => w.holds a) = some { device := .ram, base := 0, length := ramLength } := by
    unfold addressMap
    rw [List.find?_cons_of_pos]
    simp [Window.holds, h]
  simp [answering, this]

/-- A ROM address is answered by ROM (R65). -/
theorem answering_rom (v : ParallelVariant) (a : Nat) (h : romBase ≤ a) (h' : a < romBase + romLength) :
    answering v a = some (.rom, a - romBase) := by
  unfold romBase romLength at *
  have hv : v.length ≤ 11 := by cases v <;> decide
  have : (addressMap v).find? (fun w => w.holds a) = some { device := .rom, base := romBase, length := romLength } := by
    unfold addressMap
    simp only [List.find?_cons, Window.holds, ramLength, romBase, romLength]
    have e0 : ¬ a < 0 + 0x20000 := by omega
    have e1 : ¬ a < 0x70000 + 5 := by omega
    have e2 : ¬ a < 0x71000 + 5 := by omega
    have e3 : ¬ a < 0x72000 + 4 := by omega
    have e4 : ¬ a < 0x73000 + v.length := by omega
    have e5 : ¬ a < 0x7F000 + 1 := by omega
    have e6 : 0x80000 ≤ a := by omega
    have e7 : a < 0x80000 + 0x40000 := by omega
    simp [e0, e1, e2, e3, e4, e5, e6, e7]
  simp [answering, this, romBase]

/-- What a read transaction returns: the word of the device that answers, or the stale data bus (R70, R67). -/
theorem physRead_value (pa : Addr) (s : State) : (physRead pa s).1 = s.busWord pa.toNat := by
  cases h : answering s.cfg.parallelVariant pa.toNat with
  | none => simp [physRead, State.busWord, h]
  | some x => simp [physRead, State.busWord, h]

/-- After a read transaction the data bus holds the word returned (R70, R67). -/
theorem physRead_dbus (pa : Addr) (s : State) : (physRead pa s).2.dbus = (physRead pa s).1 := by
  cases h : answering s.cfg.parallelVariant pa.toNat with
  | none => simp [physRead, State.driveRead, h]
  | some x => simp [physRead, h]

/-- What a read effect leaves alone, whatever the device (R72). -/
theorem deviceReadEffect_frame (d : Device) (o : Nat) (s : State) :
    (s.deviceReadEffect d o).gpr = s.gpr ∧ (s.deviceReadEffect d o).spr = s.spr ∧ (s.deviceReadEffect d o).pc = s.pc ∧
    (s.deviceReadEffect d o).status = s.status ∧ (s.deviceReadEffect d o).ir = s.ir ∧
    (s.deviceReadEffect d o).countdown = s.countdown ∧ (s.deviceReadEffect d o).ticks = s.ticks ∧
    (s.deviceReadEffect d o).mem = s.mem ∧ (s.deviceReadEffect d o).cfg = s.cfg ∧
    (s.deviceReadEffect d o).timer = s.timer ∧ (s.deviceReadEffect d o).parallel = s.parallel ∧
    (s.deviceReadEffect d o).button = s.button ∧ (s.deviceReadEffect d o).completed = s.completed ∧
    (s.deviceReadEffect d o).sent = s.sent ∧ (s.deviceReadEffect d o).abus = s.abus ∧
    (s.deviceReadEffect d o).isWrite = s.isWrite := by
  cases d <;> simp [State.deviceReadEffect]

/-- What a read transaction leaves alone and what it puts on the address bus (R70, R72). -/
theorem physRead_frame (pa : Addr) (s : State) :
    (physRead pa s).2.gpr = s.gpr ∧ (physRead pa s).2.spr = s.spr ∧ (physRead pa s).2.pc = s.pc ∧
    (physRead pa s).2.status = s.status ∧ (physRead pa s).2.ir = s.ir ∧ (physRead pa s).2.countdown = s.countdown ∧
    (physRead pa s).2.ticks = s.ticks ∧ (physRead pa s).2.mem = s.mem ∧ (physRead pa s).2.cfg = s.cfg ∧
    (physRead pa s).2.timer = s.timer ∧ (physRead pa s).2.parallel = s.parallel ∧ (physRead pa s).2.button = s.button ∧
    (physRead pa s).2.completed = s.completed ∧ (physRead pa s).2.sent = s.sent ∧
    (physRead pa s).2.abus = zext20 pa ∧ (physRead pa s).2.isWrite = false := by
  unfold physRead
  split
  · rename_i d o _
    exact deviceReadEffect_frame d o (s.driveRead pa)
  · simp [State.driveRead]

/-- What a read transaction does to a serial port: reading `rx` clears data-ready, nothing else does anything (R72). -/
theorem physRead_serial (pa : Addr) (s : State) :
    (physRead pa s).2.serial1 =
      (if pa = 0x70001#20 then { s.serial1 with status := s.serial1.status &&& ~~~1#32 } else s.serial1) ∧
    (physRead pa s).2.serial2 =
      (if pa = 0x71001#20 then { s.serial2 with status := s.serial2.status &&& ~~~1#32 } else s.serial2) := by
  have e1 : pa = 0x70001#20 ↔ pa.toNat = 0x70001 := by
    rw [← BitVec.toNat_inj]; simp
  have e2 : pa = 0x71001#20 ↔ pa.toNat = 0x71001 := by
    rw [← BitVec.toNat_inj]; simp
  unfold physRead
  split
  · rename_i d o h
    have hlen : s.cfg.parallelVariant.length ≤ 11 := by cases s.cfg.parallelVariant <;> decide
    have hram : ramLength = 0x20000 := rfl
    have hrom : romBase = 0x80000 := rfl
    have n1 : pa.toNat ≠ 0x70001 → ¬ pa = 0x70001#20 := fun n e => n (e1.mp e)
    have n2 : pa.toNat ≠ 0x71001 → ¬ pa = 0x71001#20 := fun n e => n (e2.mp e)
    rcases answering_cases h with ⟨rfl, ha, ho⟩ | ⟨rfl, ha, ho⟩ | ⟨rfl, ha, ho⟩ | ⟨rfl, ha, ho⟩ | ⟨rfl, ha, ho⟩ |
      ⟨rfl, ha, ho⟩ | ⟨rfl, ha, ho⟩
    · exact ⟨by rw [if_neg (n1 (by omega))]; rfl, by rw [if_neg (n2 (by omega))]; rfl⟩
    · refine ⟨?_, by rw [if_neg (n2 (by omega))]; rfl⟩
      by_cases ho1 : o = 1
      · subst ho1; rw [if_pos (e1.mpr (by omega))]; rfl
      · rw [if_neg (n1 (by omega))]
        have : Serial.readEffect s.serial1 o = s.serial1 := by
          unfold Serial.readEffect; split
          · exact absurd rfl ho1
          · rfl
        exact this
    · refine ⟨by rw [if_neg (n1 (by omega))]; rfl, ?_⟩
      by_cases ho1 : o = 1
      · subst ho1; rw [if_pos (e2.mpr (by omega))]; rfl
      · rw [if_neg (n2 (by omega))]
        have : Serial.readEffect s.serial2 o = s.serial2 := by
          unfold Serial.readEffect; split
          · exact absurd rfl ho1
          · rfl
        exact this
    all_goals exact ⟨by rw [if_neg (n1 (by omega))]; rfl, by rw [if_neg (n2 (by omega))]; rfl⟩
  · rename_i h
    have hp : ∀ n, (n = 0x70001 ∨ n = 0x71001) → answering s.cfg.parallelVariant n ≠ none := by
      intro n hn
      rcases hn with rfl | rfl <;> cases s.cfg.parallelVariant <;> decide
    have n1 : ¬ pa = 0x70001#20 := fun e => hp _ (.inl (e1.mp e)) h
    have n2 : ¬ pa = 0x71001#20 := fun e => hp _ (.inr (e2.mp e)) h
    simp [n1, n2, State.driveRead]

/-- Everything a read transaction can do (R70, R72). -/
theorem physRead_touches (pa : Addr) (s : State) : ReadTouches pa s (physRead pa s).2 := by
  have f := physRead_frame pa s
  have g := physRead_serial pa s
  obtain ⟨h1, h2, h3, h4, h5, h6, h7, h8, h9, h10, h11, h12, h13, h14, _, _⟩ := f
  exact ⟨⟨g.1, g.2, h10, h11, h12⟩, fun key => by rw [h8], ⟨h5, h6, h7, h13, h14, h9⟩,
    fun r => State.reg_congr h1 r, fun k => State.sreg_congr h2 k, h3, h4⟩

/-- What a strobed store leaves alone, whatever the device (R71, R73). -/
theorem deviceStore_frame (d : Device) (o : Nat) (v : Word) (s : State) :
    (s.deviceStore d o v).gpr = s.gpr ∧ (s.deviceStore d o v).spr = s.spr ∧ (s.deviceStore d o v).pc = s.pc ∧
    (s.deviceStore d o v).status = s.status ∧ (s.deviceStore d o v).ir = s.ir ∧
    (s.deviceStore d o v).countdown = s.countdown ∧ (s.deviceStore d o v).ticks = s.ticks ∧
    (s.deviceStore d o v).cfg = s.cfg ∧ (s.deviceStore d o v).completed = s.completed ∧
    (s.deviceStore d o v).sent = s.sent ∧ (s.deviceStore d o v).abus = s.abus ∧
    (s.deviceStore d o v).isWrite = s.isWrite ∧ (s.deviceStore d o v).dbus = s.dbus := by
  cases d <;> simp [State.deviceStore]

/-- What a write transaction leaves alone and what it puts on the buses (R71). -/
theorem physWrite_frame (pa : Addr) (v : Word) (s : State) :
    (physWrite pa v s).gpr = s.gpr ∧ (physWrite pa v s).spr = s.spr ∧ (physWrite pa v s).pc = s.pc ∧
    (physWrite pa v s).status = s.status ∧ (physWrite pa v s).ir = s.ir ∧ (physWrite pa v s).countdown = s.countdown ∧
    (physWrite pa v s).ticks = s.ticks ∧ (physWrite pa v s).cfg = s.cfg ∧ (physWrite pa v s).completed = s.completed ∧
    (physWrite pa v s).sent = s.sent ∧ (physWrite pa v s).abus = zext20 pa ∧ (physWrite pa v s).isWrite = true ∧
    (physWrite pa v s).dbus = v := by
  unfold physWrite
  split
  · rename_i d o _
    exact deviceStore_frame d o v (s.driveWrite pa v)
  · simp [State.driveWrite]

/-- What a write transaction does to memory: a RAM word is replaced, any other address leaves memory alone (R71, R69). -/
theorem physWrite_mem (pa : Addr) (v : Word) (s : State) :
    (physWrite pa v s).mem = if pa.toNat < ramLength then s.mem.writeWord pa.toNat v else s.mem := by
  unfold physWrite
  split
  · rename_i d o h
    have hram : ramLength = 0x20000 := rfl
    have hrom : romBase = 0x80000 := rfl
    rcases answering_cases h with ⟨rfl, ha, ho⟩ | ⟨rfl, ha, ho⟩ | ⟨rfl, ha, ho⟩ | ⟨rfl, ha, ho⟩ | ⟨rfl, ha, ho⟩ |
      ⟨rfl, ha, ho⟩ | ⟨rfl, ha, ho⟩
    · rw [if_pos (by omega), ha]; rfl
    all_goals rw [if_neg (by omega)]; rfl
  · rename_i h
    by_cases hr : pa.toNat < ramLength
    · rw [answering_ram _ _ hr] at h; simp at h
    · rw [if_neg hr]; rfl

/-- A write transaction keeps memory in canonical form. -/
theorem physWrite_wf (pa : Addr) (v : Word) (s : State) (h : s.mem.wf) : (physWrite pa v s).mem.wf := by
  rw [physWrite_mem]
  split
  · exact Memory.wf_writeWord _ _ _ h (.inl ‹_›)
  · exact h

/-- Translation in kernel mode (R75). -/
theorem translate_kernel (la : Addr) (s : State) (h : s.kernelMode = true) : translate la s = .done la s := by
  simp [translate, h]

/-- Translation in both modes, in terms of the physical address, the permission and the table read (R75). -/
theorem translate_permitted (la : Addr) (s : State) (h : accessPermitted la s = true) :
    translate la s = .done (physicalAddress la s) (afterTableRead la s) := by
  unfold translate physicalAddress afterTableRead
  by_cases hk : s.kernelMode = true
  · simp [hk]
  · have hp : pagePermitted (relocate la s) s = true := by simpa [accessPermitted, hk] using h
    unfold pagePermitted at hp
    simp [hk, physRead_value, hp]

/-- Translation of a forbidden address: only the table read happens, and GPF is raised (R75, R77). -/
theorem translate_denied (la : Addr) (s : State) (h : accessPermitted la s = false) :
    translate la s = .denied ((afterTableRead la s).raise gpfBit) := by
  unfold translate afterTableRead
  have hk : s.kernelMode = false := by
    by_contra hc; simp [accessPermitted, hc] at h
  have hp : pagePermitted (relocate la s) s = false := by simpa [accessPermitted, hk] using h
  unfold pagePermitted at hp
  simp [hk, physRead_value, hp]

/-- A load's access, permitted (R79). -/
theorem memRead_permitted (la : Addr) (s : State) (h : accessPermitted la s = true) :
    memRead la s = .done (physRead (physicalAddress la s) (afterTableRead la s)).1
      (physRead (physicalAddress la s) (afterTableRead la s)).2 := by
  simp [memRead, translate_permitted la s h]

/-- A load's access, refused (R79). -/
theorem memRead_denied (la : Addr) (s : State) (h : accessPermitted la s = false) :
    memRead la s = .denied ((afterTableRead la s).raise gpfBit) := by
  simp [memRead, translate_denied la s h]

/-- A store's access, permitted (R79). -/
theorem memWrite_permitted (la : Addr) (v : Word) (s : State) (h : accessPermitted la s = true) :
    memWrite la v s = .done () (physWrite (physicalAddress la s) v (afterTableRead la s)) := by
  simp [memWrite, translate_permitted la s h]

/-- A store's access, refused (R79). -/
theorem memWrite_denied (la : Addr) (v : Word) (s : State) (h : accessPermitted la s = false) :
    memWrite la v s = .denied ((afterTableRead la s).raise gpfBit) := by
  simp [memWrite, translate_denied la s h]

/-- The state after the table read of an access is that of no read at all or of one read (R214). -/
theorem afterTableRead_cases (la : Addr) (s : State) :
    (s.kernelMode = true ∧ afterTableRead la s = s) ∨
    (s.kernelMode = false ∧ afterTableRead la s = (physRead (tableAddress (relocate la s) s) s).2) := by
  unfold afterTableRead
  by_cases h : s.kernelMode = true
  · exact .inl ⟨h, by simp [h]⟩
  · exact .inr ⟨by simpa using h, by simp [h]⟩

/-- What the table read of an access leaves alone (R214, R72). -/
theorem afterTableRead_frame (la : Addr) (s : State) :
    (afterTableRead la s).gpr = s.gpr ∧ (afterTableRead la s).spr = s.spr ∧ (afterTableRead la s).pc = s.pc ∧
    (afterTableRead la s).status = s.status ∧ (afterTableRead la s).ir = s.ir ∧
    (afterTableRead la s).countdown = s.countdown ∧ (afterTableRead la s).ticks = s.ticks ∧
    (afterTableRead la s).mem = s.mem ∧ (afterTableRead la s).cfg = s.cfg ∧ (afterTableRead la s).timer = s.timer ∧
    (afterTableRead la s).parallel = s.parallel ∧ (afterTableRead la s).button = s.button ∧
    (afterTableRead la s).completed = s.completed ∧ (afterTableRead la s).sent = s.sent := by
  rcases afterTableRead_cases la s with ⟨_, h⟩ | ⟨_, h⟩
  · simp [h]
  · rw [h]
    obtain ⟨h1, h2, h3, h4, h5, h6, h7, h8, h9, h10, h11, h12, h13, h14, _, _⟩ :=
      physRead_frame (tableAddress (relocate la s) s) s
    exact ⟨h1, h2, h3, h4, h5, h6, h7, h8, h9, h10, h11, h12, h13, h14⟩

/-- The fetch, permitted (R79, R38). -/
theorem fetch_permitted (s : State) (h : accessPermitted s.pc s = true) :
    fetch s = .done () { (physRead (physicalAddress s.pc s) (afterTableRead s.pc s)).2 with
      ir := (physRead (physicalAddress s.pc s) (afterTableRead s.pc s)).1, pc := s.pc + 1#20 } := by
  have hp : (physRead (physicalAddress s.pc s) (afterTableRead s.pc s)).2.pc = s.pc := by
    rw [(physRead_frame _ _).2.2.1, (afterTableRead_frame _ _).2.2.1]
  simp [fetch, memRead_permitted s.pc s h, hp]

/-- The fetch, refused: neither the latch nor `pc` changes (R321). -/
theorem fetch_denied (s : State) (h : accessPermitted s.pc s = false) :
    fetch s = .denied ((afterTableRead s.pc s).raise gpfBit) := by
  simp [fetch, memRead_denied s.pc s h]

/-- The boundary check takes one of two ways (R240). -/
theorem boundaryCheck_cases (s : State) :
    (admittedCauses s = 0#16 ∧ boundaryCheck s = s.refreshStatus) ∨
    (admittedCauses s ≠ 0#16 ∧ boundaryCheck s = exceptionEntry (admittedCauses s) s.refreshStatus) := by
  unfold boundaryCheck
  by_cases h : admittedCauses s = 0#16
  · exact .inl ⟨h, by simp [h]⟩
  · exact .inr ⟨h, by simp [h]⟩

/-- A kernel access is always permitted (R78). -/
theorem accessPermitted_kernel (la : Addr) (s : State) (h : s.kernelMode = true) : accessPermitted la s = true := by
  simp [accessPermitted, h]

/-- The end of an ALU instruction takes one of two ways (R131, R133). -/
theorem writeResult_cases (rd : Reg) (x : Option Word) (s : State) :
    (∃ v, x = some v ∧ writeResult rd x s = (s.setReg rd v).complete) ∨
    (x = none ∧ writeResult rd x s = s.raise arithBit) := by
  cases x with
  | none => exact .inr ⟨rfl, rfl⟩
  | some v => exact .inl ⟨v, rfl, rfl⟩

/-- The whole effect of writing a result and completing. -/
theorem writesRegister_setReg_complete (rd : Reg) (v : Word) (s : State) : WritesRegister rd v s (s.setReg rd v).complete :=
  ⟨fun r => by simp [State.reg_setReg], fun k => by simp [State.sreg_complete], rfl, rfl,
    fun _ => rfl, ⟨rfl, rfl, rfl, rfl, rfl⟩, ⟨rfl, rfl, rfl⟩, ⟨rfl, rfl, rfl, rfl, rfl, rfl⟩⟩

/-- The whole effect of raising a cause. -/
theorem onlyRaises_raise (bit : BitVec 16) (s : State) : OnlyRaises bit s (s.raise bit) :=
  ⟨rfl, fun _ => rfl, fun _ => rfl, rfl, fun _ => rfl, ⟨rfl, rfl, rfl, rfl, rfl⟩, ⟨rfl, rfl, rfl⟩,
    ⟨rfl, rfl, rfl, rfl, rfl, rfl⟩⟩

end Sys2Proof.Machine
end

