-- ==== Sys2Proof/Laws/Exec.lean ====
section
/-! SUPPORT. What `exec` can do, said once: every instruction is one of thirteen shapes; and what no instruction changes. -/

namespace Sys2Proof.Machine

/-- Every instruction is one of thirteen shapes (R131, R132, R170, R171, R200 to R206, R211 to R213, R220 to R224). -/
theorem exec_cases (i : Instr) (s : State) :
    (∃ rd f a b, aluOperation i s = some (f, a, b) ∧ exec i s = .next (writeResult rd (alu f a b) s)) ∨
    (∃ rd address, i = .la rd address ∧ exec i s = .next (s.setReg rd (zext20 address)).complete) ∨
    (∃ target, (i = .j target ∨ ∃ rs, i = .jr rs ∧ target = a20 (s.reg rs)) ∧ exec i s = .next (jumpTo target s)) ∨
    (∃ target, (i = .jal target ∨ ∃ rs, i = .jalr rs ∧ target = a20 (s.reg rs)) ∧ exec i s = .next (jumpTo target s.link)) ∨
    (∃ rs offset, i = .beqz rs offset ∧ exec i s = .next (branchIf (s.reg rs == 0#32) offset s)) ∨
    (∃ rs offset, i = .bnez rs offset ∧ exec i s = .next (branchIf (s.reg rs != 0#32) offset s)) ∨
    (∃ rd rs offset, i = .lw rd rs offset) ∨
    (∃ rd rs offset, i = .sw rd rs offset) ∨
    (i = .brk ∧ exec i s = .next (s.raise breakBit).complete) ∨
    (i = .syscall ∧ exec i s = .next (s.raise syscallBit).complete) ∨
    i = .rfe ∨
    (∃ k rs, i = .movgs k rs ∧ exec i s = .next (privileged (fun s => s.setSreg k (s.reg rs)) s)) ∨
    (∃ rd k, i = .movsg rd k ∧ exec i s = .next (privileged (fun s => s.setReg rd (s.sreg k)) s)) := by
  cases i
  case la rd a => exact .inr (.inl ⟨rd, a, rfl, rfl⟩)
  case j t => exact .inr (.inr (.inl ⟨t, .inl rfl, rfl⟩))
  case jr rs => exact .inr (.inr (.inl ⟨_, .inr ⟨rs, rfl, rfl⟩, rfl⟩))
  case jal t => exact .inr (.inr (.inr (.inl ⟨t, .inl rfl, rfl⟩)))
  case jalr rs => exact .inr (.inr (.inr (.inl ⟨_, .inr ⟨rs, rfl, rfl⟩, rfl⟩)))
  case beqz rs o => exact .inr (.inr (.inr (.inr (.inl ⟨rs, o, rfl, rfl⟩))))
  case bnez rs o => exact .inr (.inr (.inr (.inr (.inr (.inl ⟨rs, o, rfl, rfl⟩)))))
  case lw rd rs o => exact .inr (.inr (.inr (.inr (.inr (.inr (.inl ⟨rd, rs, o, rfl⟩))))))
  case sw rd rs o => exact .inr (.inr (.inr (.inr (.inr (.inr (.inr (.inl ⟨rd, rs, o, rfl⟩)))))))
  case brk => exact .inr (.inr (.inr (.inr (.inr (.inr (.inr (.inr (.inl ⟨rfl, rfl⟩))))))))
  case syscall => exact .inr (.inr (.inr (.inr (.inr (.inr (.inr (.inr (.inr (.inl ⟨rfl, rfl⟩)))))))))
  case rfe => exact .inr (.inr (.inr (.inr (.inr (.inr (.inr (.inr (.inr (.inr (.inl rfl))))))))))
  case movgs k rs => exact .inr (.inr (.inr (.inr (.inr (.inr (.inr (.inr (.inr (.inr (.inr (.inl ⟨k, rs, rfl, rfl⟩)))))))))))
  case movsg rd k => exact .inr (.inr (.inr (.inr (.inr (.inr (.inr (.inr (.inr (.inr (.inr (.inr ⟨rd, k, rfl, rfl⟩)))))))))))
  all_goals exact .inl ⟨_, _, _, _, rfl, rfl⟩

/-- `lw` takes one of two ways (R211). -/
theorem exec_lw (rd rs : Reg) (offset : BitVec 20) (s : State) :
    (accessPermitted (effectiveAddress rs offset s) s = true ∧
      exec (.lw rd rs offset) s = .next
        (((physRead (physicalAddress (effectiveAddress rs offset s) s) (afterTableRead (effectiveAddress rs offset s) s)).2.setReg
          rd (physRead (physicalAddress (effectiveAddress rs offset s) s)
            (afterTableRead (effectiveAddress rs offset s) s)).1).complete)) ∨
    (accessPermitted (effectiveAddress rs offset s) s = false ∧
      exec (.lw rd rs offset) s = .next ((afterTableRead (effectiveAddress rs offset s) s).raise gpfBit)) := by
  cases h : accessPermitted (effectiveAddress rs offset s) s with
  | true => exact .inl ⟨rfl, by simp [exec, execLw, memRead_permitted _ _ h]⟩
  | false => exact .inr ⟨rfl, by simp [exec, execLw, memRead_denied _ _ h]⟩

/-- `sw` takes one of two ways (R212). -/
theorem exec_sw (rd rs : Reg) (offset : BitVec 20) (s : State) :
    (accessPermitted (effectiveAddress rs offset s) s = true ∧
      exec (.sw rd rs offset) s = .next
        (physWrite (physicalAddress (effectiveAddress rs offset s) s) (s.reg rd)
          (afterTableRead (effectiveAddress rs offset s) s)).complete) ∨
    (accessPermitted (effectiveAddress rs offset s) s = false ∧
      exec (.sw rd rs offset) s = .next ((afterTableRead (effectiveAddress rs offset s) s).raise gpfBit)) := by
  cases h : accessPermitted (effectiveAddress rs offset s) s with
  | true => exact .inl ⟨rfl, by simp [exec, execSw, memWrite_permitted _ _ _ h]⟩
  | false => exact .inr ⟨rfl, by simp [exec, execSw, memWrite_denied _ _ _ h]⟩

/-- `rfe` takes one of two ways (R222). -/
theorem exec_rfe (s : State) :
    ((s.kernelMode = true ∨ s.cfg.rfePrivileged = false) ∧ exec .rfe s = .next (returnFromException s).complete) ∨
    ((s.kernelMode = false ∧ s.cfg.rfePrivileged = true) ∧ exec .rfe s = .next (s.raise gpfBit)) := by
  cases hk : s.kernelMode <;> cases hp : s.cfg.rfePrivileged <;> simp [exec, execRfe, hk, hp]

/-- A privileged instruction takes one of two ways (R223, R224). -/
theorem privileged_cases (effect : State → State) (s : State) :
    (s.kernelMode = true ∧ privileged effect s = (effect s).complete) ∨
    (s.kernelMode = false ∧ privileged effect s = s.raise gpfBit) := by
  cases hk : s.kernelMode <;> simp [privileged, hk]

/-- A conditional branch takes one of two ways (R205, R206). -/
theorem branchIf_cases (taken : Bool) (offset : BitVec 20) (s : State) :
    branchIf taken offset s = jumpTo (if taken then branchTarget offset s else s.pc) s := by
  cases taken <;> rfl

/-- A relation that holds of every way an instruction can end holds of every instruction. -/
theorem exec_preserves {R : State → State → Prop} (i : Instr) (s t : State) (h : exec i s = .next t)
    (result : ∀ rd x, R s (writeResult rd x s)) (load : ∀ rd v, R s (s.setReg rd v).complete)
    (jump : ∀ a, R s (jumpTo a s)) (link : ∀ a, R s (jumpTo a s.link))
    (lw : ∀ rd rs offset t, exec (.lw rd rs offset) s = .next t → R s t)
    (sw : ∀ rd rs offset t, exec (.sw rd rs offset) s = .next t → R s t)
    (cause : ∀ b, b = breakBit ∨ b = syscallBit → R s (s.raise b).complete)
    (rfe : ∀ t, exec .rfe s = .next t → R s t)
    (movgs : ∀ k v, s.kernelMode = true → R s (s.setSreg k v).complete) (trap : R s (s.raise gpfBit)) : R s t := by
  rcases exec_cases i s with ⟨rd, f, a, b, -, e⟩ | ⟨rd, a, -, e⟩ | ⟨a, -, e⟩ | ⟨a, -, e⟩ | ⟨rs, o, -, e⟩ | ⟨rs, o, -, e⟩ |
    ⟨rd, rs, o, rfl⟩ | ⟨rd, rs, o, rfl⟩ | ⟨-, e⟩ | ⟨-, e⟩ | rfl | ⟨k, rs, -, e⟩ | ⟨rd, k, -, e⟩
  · rw [e] at h; cases h; exact result rd _
  · rw [e] at h; cases h; exact load rd _
  · rw [e] at h; cases h; exact jump a
  · rw [e] at h; cases h; exact link a
  · rw [e, branchIf_cases] at h; cases h; exact jump _
  · rw [e, branchIf_cases] at h; cases h; exact jump _
  · exact lw rd rs o t h
  · exact sw rd rs o t h
  · rw [e] at h; cases h; exact cause _ (.inl rfl)
  · rw [e] at h; cases h; exact cause _ (.inr rfl)
  · exact rfe t h
  · rw [e] at h
    rcases privileged_cases (fun s => s.setSreg k (s.reg rs)) s with ⟨hk, hp⟩ | ⟨_, hp⟩
    · rw [hp] at h; cases h; exact movgs k _ hk
    · rw [hp] at h; cases h; exact trap
  · rw [e] at h
    rcases privileged_cases (fun s => s.setReg rd (s.sreg k)) s with ⟨hk, hp⟩ | ⟨_, hp⟩
    · rw [hp] at h; cases h; exact load rd _
    · rw [hp] at h; cases h; exact trap

/-- Every instruction ends in a next state (R329). -/
theorem exec_next (i : Instr) (s : State) : ∃ t, exec i s = .next t := by
  rcases exec_cases i s with ⟨rd, f, a, b, -, e⟩ | ⟨rd, a, -, e⟩ | ⟨a, -, e⟩ | ⟨a, -, e⟩ | ⟨rs, o, -, e⟩ | ⟨rs, o, -, e⟩ |
    ⟨rd, rs, o, rfl⟩ | ⟨rd, rs, o, rfl⟩ | ⟨-, e⟩ | ⟨-, e⟩ | rfl | ⟨k, rs, -, e⟩ | ⟨rd, k, -, e⟩
  case inr.inr.inr.inr.inr.inr.inl => rcases exec_lw rd rs o s with ⟨_, e⟩ | ⟨_, e⟩ <;> exact ⟨_, e⟩
  case inr.inr.inr.inr.inr.inr.inr.inl => rcases exec_sw rd rs o s with ⟨_, e⟩ | ⟨_, e⟩ <;> exact ⟨_, e⟩
  case inr.inr.inr.inr.inr.inr.inr.inr.inr.inr.inl => rcases exec_rfe s with ⟨_, e⟩ | ⟨_, e⟩ <;> exact ⟨_, e⟩
  all_goals exact ⟨_, e⟩

end Sys2Proof.Machine
end

