-- ==== Sys2Proof/Laws/Tick.lean ====
section
/-! SUPPORT. What a tick can do, said once: the four ways of a step, and what the parts of a tick leave alone (R315, R320 to
R322). -/

namespace Sys2Proof.Machine

/-- The boundary check leaves everything outside the special registers, `pc` and the accumulator alone (R240, R241). -/
theorem boundaryCheck_frame (s : State) :
    (boundaryCheck s).gpr = s.gpr ∧ (boundaryCheck s).cfg = s.cfg ∧ (boundaryCheck s).ir = s.ir ∧
    (boundaryCheck s).countdown = s.countdown ∧ (boundaryCheck s).abus = s.abus ∧ (boundaryCheck s).isWrite = s.isWrite ∧
    (boundaryCheck s).dbus = s.dbus ∧ (boundaryCheck s).ticks = s.ticks ∧ (boundaryCheck s).mem = s.mem ∧
    (boundaryCheck s).timer = s.timer ∧ (boundaryCheck s).serial1 = s.serial1 ∧ (boundaryCheck s).serial2 = s.serial2 ∧
    (boundaryCheck s).parallel = s.parallel ∧ (boundaryCheck s).button = s.button ∧
    (boundaryCheck s).completed = s.completed ∧ (boundaryCheck s).sent = s.sent := by
  rcases boundaryCheck_cases s with ⟨_, e⟩ | ⟨_, e⟩ <;> rw [e] <;>
    exact ⟨rfl, rfl, rfl, rfl, rfl, rfl, rfl, rfl, rfl, rfl, rfl, rfl, rfl, rfl, rfl, rfl⟩

/-- A special register after the boundary check: entry writes four of them (R241). -/
theorem boundaryCheck_sreg (s : State) (k : SReg) (h1 : k ≠ cctrlSlot) (h2 : k ≠ earSlot) (h3 : k ≠ ersSlot)
    (h4 : k ≠ estatSlot) : (boundaryCheck s).sreg k = s.sreg k := by
  rcases boundaryCheck_cases s with ⟨_, e⟩ | ⟨_, e⟩
  · rw [e]; rfl
  · rw [e, exceptionEntry_sreg]; simp [h1, h2, h3, h4]

/-- The state at the fetch of a tick that begins at a boundary still has nothing to count. -/
theorem atFetch_countdown (s : State) : (atFetch s).countdown = s.countdown := (boundaryCheck_frame (beginTick s)).2.2.2.1

/-- What a fetch that succeeds leaves alone, and what it puts into the latch and `pc` (R79, R38). -/
theorem fetch_frame (s t : State) (h : fetch s = .done () t) :
    t.gpr = s.gpr ∧ t.spr = s.spr ∧ t.status = s.status ∧ t.countdown = s.countdown ∧ t.ticks = s.ticks ∧
    t.mem = s.mem ∧ t.cfg = s.cfg ∧ t.timer = s.timer ∧ t.parallel = s.parallel ∧ t.button = s.button ∧
    t.completed = s.completed ∧ t.sent = s.sent ∧ t.pc = s.pc + 1#20 ∧ t.abus = zext20 (physicalAddress s.pc s) ∧
    accessPermitted s.pc s = true := by
  cases hp : accessPermitted s.pc s with
  | false => rw [fetch_denied s hp] at h; cases h
  | true =>
    rw [fetch_permitted s hp] at h
    cases h
    obtain ⟨m1, m2, m3, m4, m5, m6, m7, m8, m9, m10, m11, m12, m13, m14⟩ := afterTableRead_frame s.pc s
    obtain ⟨n1, n2, n3, n4, n5, n6, n7, n8, n9, n10, n11, n12, n13, n14, n15, _⟩ :=
      physRead_frame (physicalAddress s.pc s) (afterTableRead s.pc s)
    exact ⟨n1.trans m1, n2.trans m2, n4.trans m4, n6.trans m6, n7.trans m7, n8.trans m8, n9.trans m9, n10.trans m10,
      n11.trans m11, n12.trans m12, n13.trans m13, n14.trans m14, rfl, n15, rfl⟩

/-- The whole effect of an access the MPU refuses (R77, R211, R212). -/
theorem refusedAccess_raise (la : Addr) (s : State) (h : accessPermitted la s = false) :
    RefusedAccess la s ((afterTableRead la s).raise gpfBit) := by
  obtain ⟨m1, m2, m3, m4, m5, m6, m7, m8, m9, m10, m11, m12, m13, m14⟩ := afterTableRead_frame la s
  refine ⟨by show _ ||| _ = _; rw [m4], fun r => State.reg_congr (s := s) m1 r, fun k => State.sreg_congr (s := s) m2 k, m3,
    fun key => by show Memory.readByte (afterTableRead la s).mem key = _; rw [m8], ⟨m5, m6, m7, m13, m14, m9⟩, ?_⟩
  have hv := physRead_value (tableAddress (relocate la s) s) s
  obtain ⟨_, _, _, _, _, _, _, _, _, _, _, _, _, _, habus, hwrite⟩ := physRead_frame (tableAddress (relocate la s) s) s
  rcases afterTableRead_cases la s with ⟨hk, _⟩ | ⟨_, e⟩
  · simp [accessPermitted, hk] at h
  · rw [e]; exact ⟨(physRead_touches _ s).1, habus, hwrite, (physRead_dbus _ s).trans hv⟩

/-- A step takes one of four ways: it counts, its fetch is refused, it issues a word that selects nothing, or it issues an
instruction (R320 to R322, R225). -/
theorem step_cases (s t : State) (h : step s = .next t) :
    (0 < s.countdown ∧ s.issued = none ∧ t = finishTick false (countDown (beginTick s))) ∨
    (s.countdown = 0 ∧ s.issued = none ∧ accessPermitted (atFetch s).pc (atFetch s) = false ∧
      t = finishTick true ((afterTableRead (atFetch s).pc (atFetch s)).raise gpfBit)) ∨
    (∃ f, s.countdown = 0 ∧ s.issued = none ∧ fetch (atFetch s) = .done () f ∧ t = finishTick true (issueUndefined f)) ∨
    (∃ i f u, s.countdown = 0 ∧ s.issued = some i ∧ fetch (atFetch s) = .done () f ∧ exec i (issueState i f) = .next u ∧
      t = finishTick true u) := by
  have h' : boardTick s = .next t := h
  unfold boardTick at h'
  unfold State.issued
  by_cases hc : 0 < s.countdown
  · rw [if_pos hc] at h'
    simp only [Host.Outcome.next.injEq] at h'
    exact .inl ⟨hc, if_pos hc, h'.symm⟩
  · rw [if_neg hc] at h' ⊢
    have h0 : s.countdown = 0 := by omega
    cases hp : accessPermitted (atFetch s).pc (atFetch s) with
    | false =>
      rw [fetch_denied _ hp] at h' ⊢
      simp only [Host.Outcome.next.injEq] at h'
      exact .inr (.inl ⟨h0, rfl, rfl, h'.symm⟩)
    | true =>
      obtain ⟨f, hf⟩ : ∃ f, fetch (atFetch s) = .done () f := ⟨_, fetch_permitted _ hp⟩
      rw [hf] at h' ⊢
      simp only at h' ⊢
      cases hd : decode f.ir with
      | error e =>
        rw [hd] at h'
        simp only [Host.Outcome.next.injEq] at h'
        exact .inr (.inr (.inl ⟨f, h0, rfl, rfl, h'.symm⟩))
      | ok i =>
        rw [hd] at h'
        simp only at h'
        obtain ⟨u, hu⟩ := exec_next i (issueState i f)
        rw [hu] at h'
        simp only [Host.Outcome.next.injEq] at h'
        exact .inr (.inr (.inr ⟨i, f, u, h0, rfl, rfl, hu, h'.symm⟩))

/-- What the end of a tick leaves alone (R315). -/
theorem finishTick_frame (c : Bool) (s : State) :
    (finishTick c s).gpr = s.gpr ∧ (finishTick c s).spr = s.spr ∧ (finishTick c s).pc = s.pc ∧
    (finishTick c s).status = s.status ∧ (finishTick c s).mem = s.mem ∧ (finishTick c s).cfg = s.cfg ∧
    (finishTick c s).abus = s.abus ∧ (finishTick c s).ticks = s.ticks ∧ (finishTick c s).countdown = s.countdown ∧
    (finishTick c s).timer = s.timer.tick s.cfg.timerDiv := ⟨rfl, rfl, rfl, rfl, rfl, rfl, rfl, rfl, rfl, rfl⟩

end Sys2Proof.Machine
end

