-- ==== Sys2Proof/Laws/Frames.lean ====
section
/-! SUPPORT. The frames of the shared operations, and the words they compute, bit by bit. -/

namespace Sys2Proof.Machine

theorem SameBoard.refl (s : State) : SameBoard s s :=
  ⟨fun _ => rfl, ⟨rfl, rfl, rfl, rfl, rfl⟩, ⟨rfl, rfl, rfl⟩, ⟨rfl, rfl, rfl, rfl, rfl, rfl⟩⟩

theorem SameBoard.trans {s t u : State} (h : SameBoard s t) (k : SameBoard t u) : SameBoard s u := by
  obtain ⟨h1, ⟨h2, h3, h4, h5, h6⟩, ⟨h7, h8, h9⟩, ⟨h10, h11, h12, h13, h14, h15⟩⟩ := h
  obtain ⟨k1, ⟨k2, k3, k4, k5, k6⟩, ⟨k7, k8, k9⟩, ⟨k10, k11, k12, k13, k14, k15⟩⟩ := k
  exact ⟨fun key => (k1 key).trans (h1 key), ⟨k2.trans h2, k3.trans h3, k4.trans h4, k5.trans h5, k6.trans h6⟩,
    ⟨k7.trans h7, k8.trans h8, k9.trans h9⟩,
    ⟨k10.trans h10, k11.trans h11, k12.trans h12, k13.trans h13, k14.trans h14, k15.trans h15⟩⟩

theorem sameBoard_setReg (r : Reg) (v : Word) (s : State) : SameBoard s (s.setReg r v) :=
  ⟨fun _ => rfl, ⟨rfl, rfl, rfl, rfl, rfl⟩, ⟨rfl, rfl, rfl⟩, ⟨rfl, rfl, rfl, rfl, rfl, rfl⟩⟩

theorem sameBoard_setSreg (k : SReg) (v : Word) (s : State) : SameBoard s (s.setSreg k v) :=
  ⟨fun _ => rfl, ⟨rfl, rfl, rfl, rfl, rfl⟩, ⟨rfl, rfl, rfl⟩, ⟨rfl, rfl, rfl, rfl, rfl, rfl⟩⟩

theorem sameBoard_raise (b : BitVec 16) (s : State) : SameBoard s (s.raise b) :=
  ⟨fun _ => rfl, ⟨rfl, rfl, rfl, rfl, rfl⟩, ⟨rfl, rfl, rfl⟩, ⟨rfl, rfl, rfl, rfl, rfl, rfl⟩⟩

theorem sameBoard_complete (s : State) : SameBoard s s.complete := sameBoard_setSreg _ _ s

theorem sameBoard_jumpTo (a : Addr) (s : State) : SameBoard s (jumpTo a s) :=
  ⟨fun _ => rfl, ⟨rfl, rfl, rfl, rfl, rfl⟩, ⟨rfl, rfl, rfl⟩, ⟨rfl, rfl, rfl, rfl, rfl, rfl⟩⟩

theorem sameBoard_link (s : State) : SameBoard s s.link := sameBoard_setReg _ _ s

theorem sameBoard_refreshStatus (s : State) : SameBoard s s.refreshStatus :=
  ⟨fun _ => rfl, ⟨rfl, rfl, rfl, rfl, rfl⟩, ⟨rfl, rfl, rfl⟩, ⟨rfl, rfl, rfl, rfl, rfl, rfl⟩⟩

theorem sameBoard_exceptionEntry (p : BitVec 16) (s : State) : SameBoard s (exceptionEntry p s) :=
  ⟨fun _ => rfl, ⟨rfl, rfl, rfl, rfl, rfl⟩, ⟨rfl, rfl, rfl⟩, ⟨rfl, rfl, rfl, rfl, rfl, rfl⟩⟩

theorem sameBoard_returnFromException (s : State) : SameBoard s (returnFromException s) :=
  ⟨fun _ => rfl, ⟨rfl, rfl, rfl, rfl, rfl⟩, ⟨rfl, rfl, rfl⟩, ⟨rfl, rfl, rfl, rfl, rfl, rfl⟩⟩

/-- The set of causes that can be taken, bit by bit (R237). -/
theorem causeMask_bit (c : Word) (n : Nat) (hn : n < 16) :
    (causeMask c).getLsbD n = (decide (12 ≤ n) || (decide (4 ≤ n) && c.getLsbD 1 && c.getLsbD n)) := by
  unfold causeMask
  by_cases h : c.getLsbD 1 = true
  · rw [if_pos h, h]; interval_cases n <;> simp
  · rw [if_neg h]; simp only [Bool.not_eq_true] at h; rw [h]; interval_cases n <;> simp

/-- `cctrl` at exception entry, bit by bit (R241). -/
theorem entryCctrl_bit (c : Word) (n : Nat) (hn : n < 32) :
    (entryCctrl c).getLsbD n =
      if n = 0 then c.getLsbD 1 else if n = 1 then false else if n = 2 then c.getLsbD 3
      else if n = 3 then true else c.getLsbD n := by
  unfold entryCctrl
  interval_cases n <;> simp

/-- `cctrl` at `rfe`, bit by bit (R222). -/
theorem returnCctrl_bit (c : Word) (n : Nat) (hn : n < 32) :
    (returnCctrl c).getLsbD n = if n = 1 then c.getLsbD 0 else if n = 3 then c.getLsbD 2 else c.getLsbD n := by
  unfold returnCctrl
  interval_cases n <;> simp

/-- A line of the IRQ bus, bit by bit (R251). -/
theorem irqLine_bit (n k : Nat) (w : Word) (hk : k < 32) : (irqLine n w).getLsbD k = (decide (k = n) && w != 0#32) := by
  unfold irqLine
  by_cases h : w = 0#32
  · simp [h]
  · have : (w != 0#32) = true := by simpa using h
    rw [if_neg h, this, Bool.and_true, BitVec.getLsbD_shiftLeft, BitVec.getLsbD_one]
    simp only [hk, decide_true, Bool.true_and]
    rw [Bool.eq_iff_iff]
    simp
    omega

/-- The mode is a function of `cctrl` (R246). -/
theorem kernelMode_congr {s t : State} (h : t.sreg cctrlSlot = s.sreg cctrlSlot) : t.kernelMode = s.kernelMode := by
  unfold State.kernelMode; rw [h]

/-- Exception entry leaves the machine in kernel mode (R241, R247). -/
theorem exceptionEntry_cctrl (p : BitVec 16) (s : State) :
    (exceptionEntry p s).sreg cctrlSlot = entryCctrl (s.sreg cctrlSlot) := by
  rw [exceptionEntry_sreg, if_neg (by decide), if_neg (by decide), if_neg (by decide), if_pos rfl]

/-- A special register that no `movgs` names, but for `icount` and `rfe`'s `cctrl`, survives every instruction (R36). -/
theorem exec_sreg (i : Instr) (s t : State) (h : exec i s = .next t) (k : SReg) (hk : k ≠ icountSlot)
    (hm : ∀ rs, i ≠ .movgs k rs) (hr : i ≠ .rfe ∨ k ≠ cctrlSlot) : t.sreg k = s.sreg k := by
  rcases exec_cases i s with ⟨rd, f, a, b, -, e⟩ | ⟨rd, a, -, e⟩ | ⟨a, -, e⟩ | ⟨a, -, e⟩ | ⟨rs, o, -, e⟩ | ⟨rs, o, -, e⟩ |
    ⟨rd, rs, o, rfl⟩ | ⟨rd, rs, o, rfl⟩ | ⟨-, e⟩ | ⟨-, e⟩ | rfl | ⟨j, rs, rfl, e⟩ | ⟨rd, j, -, e⟩
  · rw [e] at h; cases h
    rcases writeResult_cases rd (alu f a b) s with ⟨v, _, e⟩ | ⟨_, e⟩ <;> rw [e] <;> simp [State.sreg_complete, hk]
  · rw [e] at h; cases h; simp [State.sreg_complete, hk]
  · rw [e] at h; cases h; simp [jumpTo_sreg, hk]
  · rw [e] at h; cases h; simp [jumpTo_sreg, hk]
  · rw [e, branchIf_cases] at h; cases h; simp [jumpTo_sreg, hk]
  · rw [e, branchIf_cases] at h; cases h; simp [jumpTo_sreg, hk]
  · rcases exec_lw rd rs o s with ⟨_, e⟩ | ⟨_, e⟩ <;> rw [e] at h <;> cases h
    · rw [State.sreg_complete, if_neg hk, State.sreg_setReg]
      exact (State.sreg_congr (physRead_frame _ _).2.1 k).trans (State.sreg_congr (afterTableRead_frame _ s).2.1 k)
    · exact State.sreg_congr (s := s) (afterTableRead_frame _ s).2.1 k
  · rcases exec_sw rd rs o s with ⟨_, e⟩ | ⟨_, e⟩ <;> rw [e] at h <;> cases h
    · rw [State.sreg_complete, if_neg hk]
      exact (State.sreg_congr (physWrite_frame _ _ _).2.1 k).trans (State.sreg_congr (afterTableRead_frame _ s).2.1 k)
    · exact State.sreg_congr (s := s) (afterTableRead_frame _ s).2.1 k
  · rw [e] at h; cases h; simp [State.sreg_complete, hk]
  · rw [e] at h; cases h; simp [State.sreg_complete, hk]
  · have : k ≠ cctrlSlot := hr.resolve_left (fun hn => hn rfl)
    rcases exec_rfe s with ⟨_, e⟩ | ⟨_, e⟩ <;> rw [e] at h <;> cases h
    · simp [State.sreg_complete, hk, returnFromException_sreg, this]
    · rfl
  · have : k ≠ j := by rintro rfl; exact hm rs rfl
    rw [e] at h
    rcases privileged_cases (fun s => s.setSreg j (s.reg rs)) s with ⟨_, hp⟩ | ⟨_, hp⟩ <;> rw [hp] at h <;> cases h
    · simp [State.sreg_complete, hk, State.sreg_setSreg, this]
    · rfl
  · rw [e] at h
    rcases privileged_cases (fun s => s.setReg rd (s.sreg j)) s with ⟨_, hp⟩ | ⟨_, hp⟩ <;> rw [hp] at h <;> cases h
    · simp [State.sreg_complete, hk]
    · rfl

end Sys2Proof.Machine
end

