-- ==== Sys2Proof/Laws/Loader.lean ====
section
/-! SUPPORT. What the loader's writes can do: one word, several words, one record. -/

namespace Sys2Proof.Machine

/-- The loader's write of a word of RAM or ROM is the memory write and nothing else (R310). -/
theorem loaderWrite_memory (a : Nat) (v : Word) (s : State)
    (h : a < ramLength ∨ romBase ≤ a ∧ a < romBase + romLength) :
    loaderWrite a v s = { s with mem := s.mem.writeWord a v } := by
  unfold loaderWrite
  rcases h with h | h
  · rw [answering_ram _ a h]
    rfl
  · rw [answering_rom _ a h.1 h.2]
    simp only
    rw [show romBase + (a - romBase) = a by omega]

/-- The loader's write leaves the register files, `pc` and the accumulator as they are, wherever it goes (R310). -/
theorem loaderWrite_frame (a : Nat) (v : Word) (s : State) :
    (loaderWrite a v s).gpr = s.gpr ∧ (loaderWrite a v s).spr = s.spr ∧ (loaderWrite a v s).pc = s.pc ∧
    (loaderWrite a v s).status = s.status ∧ (loaderWrite a v s).cfg = s.cfg := by
  unfold loaderWrite
  split
  · exact ⟨rfl, rfl, rfl, rfl, rfl⟩
  · rename_i d o _ _
    cases d <;> exact ⟨rfl, rfl, rfl, rfl, rfl⟩
  · exact ⟨rfl, rfl, rfl, rfl, rfl⟩

/-- The loader's writes leave the register files, `pc` and the accumulator as they are (R310). -/
theorem loaderWrites_frame (ws : List Word) (a : Nat) (s : State) :
    (loaderWrites a ws s).gpr = s.gpr ∧ (loaderWrites a ws s).spr = s.spr ∧ (loaderWrites a ws s).pc = s.pc ∧
    (loaderWrites a ws s).status = s.status ∧ (loaderWrites a ws s).cfg = s.cfg := by
  induction ws generalizing a s with
  | nil => exact ⟨rfl, rfl, rfl, rfl, rfl⟩
  | cons w ws ih =>
    obtain ⟨h1, h2, h3, h4, h5⟩ := loaderWrite_frame a w s
    obtain ⟨k1, k2, k3, k4, k5⟩ := ih (a + 1) (loaderWrite a w s)
    exact ⟨k1.trans h1, k2.trans h2, k3.trans h3, k4.trans h4, k5.trans h5⟩

/-- What a record of type 3 does (R310). -/
theorem applyRecord_three {r : Record} {ws : List Word} (s : State) (ht : r.type = '3') (hp : payloadWords r.payload = some ws) :
    applyRecord r s = (ws.length, loaderWrites r.address ws s) := by
  simp [applyRecord, ht, hp]

/-- What a record of a type other than 3 and 7 does: nothing (R310). -/
theorem applyRecord_other {r : Record} (s : State) (h3 : r.type ≠ '3') (h7 : r.type ≠ '7') : applyRecord r s = (0, s) := by
  simp [applyRecord, h3, h7]

end Sys2Proof.Machine
end

