-- ==== Sys2Proof/Laws/PerInstr.lean ====
section
/-! SUPPORT. The family `EncodingIsCanonical`: the encoding of an instruction is a word that selects one, with every ignored
bit 0 (R110, R113), one lemma per constructor. -/

namespace Sys2Proof

theorem encodeR_spare (op fn rd rs rt : BitVec 4) : encodeR op fn rd rs rt &&& 0x0000FFF0#32 = 0#32 := by
  apply word_ext
  intro i hi
  simp only [encodeR, BitVec.getLsbD_and, BitVec.getLsbD_append]
  interval_cases i <;> simp

theorem encodeR_bare (op fn : BitVec 4) : encodeR op fn 0#4 0#4 0#4 &&& 0x0FF0FFFF#32 = 0#32 := by
  apply word_ext
  intro i hi
  simp only [encodeR, BitVec.getLsbD_and, BitVec.getLsbD_append]
  interval_cases i <;> simp

theorem encodeI_move (op fn rd rs : BitVec 4) : encodeI op fn rd rs 0#16 &&& 0x0000FFFF#32 = 0#32 := by
  apply word_ext
  intro i hi
  simp only [encodeI, BitVec.getLsbD_and, BitVec.getLsbD_append]
  interval_cases i <;> simp

theorem encodeI_high (op fn rd : BitVec 4) (imm : BitVec 16) : encodeI op fn rd 0#4 imm &&& 0x00F00000#32 = 0#32 := by
  apply word_ext
  intro i hi
  simp only [encodeI, BitVec.getLsbD_and, BitVec.getLsbD_append]
  interval_cases i <;> simp

theorem encodeJ_target (op : BitVec 4) (imm : BitVec 20) : encodeJ op 0#4 0#4 imm &&& 0x0FF00000#32 = 0#32 := by
  apply word_ext
  intro i hi
  simp only [encodeJ, BitVec.getLsbD_and, BitVec.getLsbD_append]
  interval_cases i <;> simp

theorem encodeJ_register (op rs : BitVec 4) : encodeJ op 0#4 rs 0#20 &&& 0x0F0FFFFF#32 = 0#32 := by
  apply word_ext
  intro i hi
  simp only [encodeJ, BitVec.getLsbD_and, BitVec.getLsbD_append]
  interval_cases i <;> simp

theorem encodeJ_branch (op rs : BitVec 4) (imm : BitVec 20) : encodeJ op 0#4 rs imm &&& 0x0F000000#32 = 0#32 := by
  apply word_ext
  intro i hi
  simp only [encodeJ, BitVec.getLsbD_and, BitVec.getLsbD_append]
  interval_cases i <;> simp

theorem encodeJ_address (op rd : BitVec 4) (imm : BitVec 20) : encodeJ op rd 0#4 imm &&& 0x00F00000#32 = 0#32 := by
  apply word_ext
  intro i hi
  simp only [encodeJ, BitVec.getLsbD_and, BitVec.getLsbD_append]
  interval_cases i <;> simp

/-- `wellFormedWord` and `ignoredBits` read the opcode and function fields only (R110, R113). -/
theorem canonical_of_fields (w : Word) (op fn : BitVec 4) (ho : opField w = op) (hf : fn4Field w = fn)
    (hop : op.toNat ≤ 0xC) (hfn : ((op == 0x2#4 || op == 0x3#4) && fn == 0xF#4) = false) (mask : Word)
    (hm : ignoredBits w = mask) (hw : w &&& mask = 0#32) : wellFormedWord w = true ∧ ignoredBitsClear w = true := by
  have ho' : w.extractLsb' 28 4 = op := ho
  have hf' : w.extractLsb' 16 4 = fn := hf
  constructor
  · simp only [wellFormedWord, opcodeDefined, functionDefined, ho', hf', hfn, hop, decide_true, Bool.not_false, Bool.and_self]
  · simp [ignoredBitsClear, hm, hw]

/-- The ignored bits of a word whose opcode decides them alone, or with its function field (R113). -/
theorem ignoredBits_of_fields (w : Word) (op fn : BitVec 4) (ho : opField w = op) (hf : fn4Field w = fn) :
    ignoredBits w = ignoredBits (op ++ 0#8 ++ fn ++ 0#16) := by
  have ho' : w.extractLsb' 28 4 = op := ho
  have hf' : w.extractLsb' 16 4 = fn := hf
  have h1 : (op ++ 0#8 ++ fn ++ 0#16 : Word).extractLsb' 28 4 = op := by
    apply word_ext
    intro i hi
    simp only [BitVec.getLsbD_extractLsb', BitVec.getLsbD_append]
    interval_cases i <;> simp
  have h2 : (op ++ 0#8 ++ fn ++ 0#16 : Word).extractLsb' 16 4 = fn := by
    apply word_ext
    intro i hi
    simp only [BitVec.getLsbD_extractLsb', BitVec.getLsbD_append]
    interval_cases i <;> simp
  simp only [ignoredBits, ho', hf', h1, h2]

/-- The ignored bits of a J-type word (R113). -/
theorem canonical_of_opcode (w : Word) (op : BitVec 4) (ho : opField w = op) (hop : op.toNat ≤ 0xC) (h4 : 4 ≤ op.toNat)
    (mask : Word) (hm : ignoredBits (op ++ 0#28) = mask) (hw : w &&& mask = 0#32) :
    wellFormedWord w = true ∧ ignoredBitsClear w = true := by
  refine canonical_of_fields w op (fn4Field w) ho rfl hop ?_ mask ?_ hw
  · have h2 : op ≠ 0x2#4 := by rintro rfl; simp at h4
    have h3 : op ≠ 0x3#4 := by rintro rfl; simp at h4
    simp [h2, h3]
  · rw [ignoredBits_of_fields w op _ ho rfl, ← hm]
    generalize fn4Field w = fn
    clear ho hm hw
    revert op fn
    decide

end Sys2Proof

namespace Sys2Proof.Laws

/-- The encoding of an instruction selects an instruction and has every ignored bit 0 (R110, R113). -/
def EncodingIsCanonical.Statement (i : Instr) : Prop :=
  wellFormedWord (encode i) = true ∧ ignoredBitsClear (encode i) = true

theorem EncodingIsCanonical.add (rd rs rt : Reg) : EncodingIsCanonical.Statement (.add rd rs rt) :=
  canonical_of_fields _ 0x0#4 0x0#4 (opField_encodeR _ _ _ _ _) (fn4Field_encodeR _ _ _ _ _) (by decide)
    (by decide) 0x0000FFF0#32 (ignoredBits_of_fields _ 0x0#4 0x0#4 (opField_encodeR _ _ _ _ _) (fn4Field_encodeR _ _ _ _ _))
    (encodeR_spare _ _ _ _ _)

theorem EncodingIsCanonical.addu (rd rs rt : Reg) : EncodingIsCanonical.Statement (.addu rd rs rt) :=
  canonical_of_fields _ 0x0#4 0x1#4 (opField_encodeR _ _ _ _ _) (fn4Field_encodeR _ _ _ _ _) (by decide)
    (by decide) 0x0000FFF0#32 (ignoredBits_of_fields _ 0x0#4 0x1#4 (opField_encodeR _ _ _ _ _) (fn4Field_encodeR _ _ _ _ _))
    (encodeR_spare _ _ _ _ _)

theorem EncodingIsCanonical.sub (rd rs rt : Reg) : EncodingIsCanonical.Statement (.sub rd rs rt) :=
  canonical_of_fields _ 0x0#4 0x2#4 (opField_encodeR _ _ _ _ _) (fn4Field_encodeR _ _ _ _ _) (by decide)
    (by decide) 0x0000FFF0#32 (ignoredBits_of_fields _ 0x0#4 0x2#4 (opField_encodeR _ _ _ _ _) (fn4Field_encodeR _ _ _ _ _))
    (encodeR_spare _ _ _ _ _)

theorem EncodingIsCanonical.subu (rd rs rt : Reg) : EncodingIsCanonical.Statement (.subu rd rs rt) :=
  canonical_of_fields _ 0x0#4 0x3#4 (opField_encodeR _ _ _ _ _) (fn4Field_encodeR _ _ _ _ _) (by decide)
    (by decide) 0x0000FFF0#32 (ignoredBits_of_fields _ 0x0#4 0x3#4 (opField_encodeR _ _ _ _ _) (fn4Field_encodeR _ _ _ _ _))
    (encodeR_spare _ _ _ _ _)

theorem EncodingIsCanonical.mult (rd rs rt : Reg) : EncodingIsCanonical.Statement (.mult rd rs rt) :=
  canonical_of_fields _ 0x0#4 0x4#4 (opField_encodeR _ _ _ _ _) (fn4Field_encodeR _ _ _ _ _) (by decide)
    (by decide) 0x0000FFF0#32 (ignoredBits_of_fields _ 0x0#4 0x4#4 (opField_encodeR _ _ _ _ _) (fn4Field_encodeR _ _ _ _ _))
    (encodeR_spare _ _ _ _ _)

theorem EncodingIsCanonical.multu (rd rs rt : Reg) : EncodingIsCanonical.Statement (.multu rd rs rt) :=
  canonical_of_fields _ 0x0#4 0x5#4 (opField_encodeR _ _ _ _ _) (fn4Field_encodeR _ _ _ _ _) (by decide)
    (by decide) 0x0000FFF0#32 (ignoredBits_of_fields _ 0x0#4 0x5#4 (opField_encodeR _ _ _ _ _) (fn4Field_encodeR _ _ _ _ _))
    (encodeR_spare _ _ _ _ _)

theorem EncodingIsCanonical.div (rd rs rt : Reg) : EncodingIsCanonical.Statement (.div rd rs rt) :=
  canonical_of_fields _ 0x0#4 0x6#4 (opField_encodeR _ _ _ _ _) (fn4Field_encodeR _ _ _ _ _) (by decide)
    (by decide) 0x0000FFF0#32 (ignoredBits_of_fields _ 0x0#4 0x6#4 (opField_encodeR _ _ _ _ _) (fn4Field_encodeR _ _ _ _ _))
    (encodeR_spare _ _ _ _ _)

theorem EncodingIsCanonical.divu (rd rs rt : Reg) : EncodingIsCanonical.Statement (.divu rd rs rt) :=
  canonical_of_fields _ 0x0#4 0x7#4 (opField_encodeR _ _ _ _ _) (fn4Field_encodeR _ _ _ _ _) (by decide)
    (by decide) 0x0000FFF0#32 (ignoredBits_of_fields _ 0x0#4 0x7#4 (opField_encodeR _ _ _ _ _) (fn4Field_encodeR _ _ _ _ _))
    (encodeR_spare _ _ _ _ _)

theorem EncodingIsCanonical.rem (rd rs rt : Reg) : EncodingIsCanonical.Statement (.rem rd rs rt) :=
  canonical_of_fields _ 0x0#4 0x8#4 (opField_encodeR _ _ _ _ _) (fn4Field_encodeR _ _ _ _ _) (by decide)
    (by decide) 0x0000FFF0#32 (ignoredBits_of_fields _ 0x0#4 0x8#4 (opField_encodeR _ _ _ _ _) (fn4Field_encodeR _ _ _ _ _))
    (encodeR_spare _ _ _ _ _)

theorem EncodingIsCanonical.remu (rd rs rt : Reg) : EncodingIsCanonical.Statement (.remu rd rs rt) :=
  canonical_of_fields _ 0x0#4 0x9#4 (opField_encodeR _ _ _ _ _) (fn4Field_encodeR _ _ _ _ _) (by decide)
    (by decide) 0x0000FFF0#32 (ignoredBits_of_fields _ 0x0#4 0x9#4 (opField_encodeR _ _ _ _ _) (fn4Field_encodeR _ _ _ _ _))
    (encodeR_spare _ _ _ _ _)

theorem EncodingIsCanonical.sll (rd rs rt : Reg) : EncodingIsCanonical.Statement (.sll rd rs rt) :=
  canonical_of_fields _ 0x0#4 0xa#4 (opField_encodeR _ _ _ _ _) (fn4Field_encodeR _ _ _ _ _) (by decide)
    (by decide) 0x0000FFF0#32 (ignoredBits_of_fields _ 0x0#4 0xa#4 (opField_encodeR _ _ _ _ _) (fn4Field_encodeR _ _ _ _ _))
    (encodeR_spare _ _ _ _ _)

theorem EncodingIsCanonical.and (rd rs rt : Reg) : EncodingIsCanonical.Statement (.and rd rs rt) :=
  canonical_of_fields _ 0x0#4 0xb#4 (opField_encodeR _ _ _ _ _) (fn4Field_encodeR _ _ _ _ _) (by decide)
    (by decide) 0x0000FFF0#32 (ignoredBits_of_fields _ 0x0#4 0xb#4 (opField_encodeR _ _ _ _ _) (fn4Field_encodeR _ _ _ _ _))
    (encodeR_spare _ _ _ _ _)

theorem EncodingIsCanonical.srl (rd rs rt : Reg) : EncodingIsCanonical.Statement (.srl rd rs rt) :=
  canonical_of_fields _ 0x0#4 0xc#4 (opField_encodeR _ _ _ _ _) (fn4Field_encodeR _ _ _ _ _) (by decide)
    (by decide) 0x0000FFF0#32 (ignoredBits_of_fields _ 0x0#4 0xc#4 (opField_encodeR _ _ _ _ _) (fn4Field_encodeR _ _ _ _ _))
    (encodeR_spare _ _ _ _ _)

theorem EncodingIsCanonical.or (rd rs rt : Reg) : EncodingIsCanonical.Statement (.or rd rs rt) :=
  canonical_of_fields _ 0x0#4 0xd#4 (opField_encodeR _ _ _ _ _) (fn4Field_encodeR _ _ _ _ _) (by decide)
    (by decide) 0x0000FFF0#32 (ignoredBits_of_fields _ 0x0#4 0xd#4 (opField_encodeR _ _ _ _ _) (fn4Field_encodeR _ _ _ _ _))
    (encodeR_spare _ _ _ _ _)

theorem EncodingIsCanonical.sra (rd rs rt : Reg) : EncodingIsCanonical.Statement (.sra rd rs rt) :=
  canonical_of_fields _ 0x0#4 0xe#4 (opField_encodeR _ _ _ _ _) (fn4Field_encodeR _ _ _ _ _) (by decide)
    (by decide) 0x0000FFF0#32 (ignoredBits_of_fields _ 0x0#4 0xe#4 (opField_encodeR _ _ _ _ _) (fn4Field_encodeR _ _ _ _ _))
    (encodeR_spare _ _ _ _ _)

theorem EncodingIsCanonical.xor (rd rs rt : Reg) : EncodingIsCanonical.Statement (.xor rd rs rt) :=
  canonical_of_fields _ 0x0#4 0xf#4 (opField_encodeR _ _ _ _ _) (fn4Field_encodeR _ _ _ _ _) (by decide)
    (by decide) 0x0000FFF0#32 (ignoredBits_of_fields _ 0x0#4 0xf#4 (opField_encodeR _ _ _ _ _) (fn4Field_encodeR _ _ _ _ _))
    (encodeR_spare _ _ _ _ _)

theorem EncodingIsCanonical.addi (rd rs : Reg) (imm : BitVec 16) : EncodingIsCanonical.Statement (.addi rd rs imm) :=
  canonical_of_fields _ 0x1#4 0x0#4 (opField_encodeI _ _ _ _ _) (fn4Field_encodeI _ _ _ _ _) (by decide)
    (by decide) 0#32 (ignoredBits_of_fields _ 0x1#4 0x0#4 (opField_encodeI _ _ _ _ _) (fn4Field_encodeI _ _ _ _ _))
    BitVec.and_zero

theorem EncodingIsCanonical.addui (rd rs : Reg) (imm : BitVec 16) : EncodingIsCanonical.Statement (.addui rd rs imm) :=
  canonical_of_fields _ 0x1#4 0x1#4 (opField_encodeI _ _ _ _ _) (fn4Field_encodeI _ _ _ _ _) (by decide)
    (by decide) 0#32 (ignoredBits_of_fields _ 0x1#4 0x1#4 (opField_encodeI _ _ _ _ _) (fn4Field_encodeI _ _ _ _ _))
    BitVec.and_zero

theorem EncodingIsCanonical.subi (rd rs : Reg) (imm : BitVec 16) : EncodingIsCanonical.Statement (.subi rd rs imm) :=
  canonical_of_fields _ 0x1#4 0x2#4 (opField_encodeI _ _ _ _ _) (fn4Field_encodeI _ _ _ _ _) (by decide)
    (by decide) 0#32 (ignoredBits_of_fields _ 0x1#4 0x2#4 (opField_encodeI _ _ _ _ _) (fn4Field_encodeI _ _ _ _ _))
    BitVec.and_zero

theorem EncodingIsCanonical.subui (rd rs : Reg) (imm : BitVec 16) : EncodingIsCanonical.Statement (.subui rd rs imm) :=
  canonical_of_fields _ 0x1#4 0x3#4 (opField_encodeI _ _ _ _ _) (fn4Field_encodeI _ _ _ _ _) (by decide)
    (by decide) 0#32 (ignoredBits_of_fields _ 0x1#4 0x3#4 (opField_encodeI _ _ _ _ _) (fn4Field_encodeI _ _ _ _ _))
    BitVec.and_zero

theorem EncodingIsCanonical.multi (rd rs : Reg) (imm : BitVec 16) : EncodingIsCanonical.Statement (.multi rd rs imm) :=
  canonical_of_fields _ 0x1#4 0x4#4 (opField_encodeI _ _ _ _ _) (fn4Field_encodeI _ _ _ _ _) (by decide)
    (by decide) 0#32 (ignoredBits_of_fields _ 0x1#4 0x4#4 (opField_encodeI _ _ _ _ _) (fn4Field_encodeI _ _ _ _ _))
    BitVec.and_zero

theorem EncodingIsCanonical.multui (rd rs : Reg) (imm : BitVec 16) : EncodingIsCanonical.Statement (.multui rd rs imm) :=
  canonical_of_fields _ 0x1#4 0x5#4 (opField_encodeI _ _ _ _ _) (fn4Field_encodeI _ _ _ _ _) (by decide)
    (by decide) 0#32 (ignoredBits_of_fields _ 0x1#4 0x5#4 (opField_encodeI _ _ _ _ _) (fn4Field_encodeI _ _ _ _ _))
    BitVec.and_zero

theorem EncodingIsCanonical.divi (rd rs : Reg) (imm : BitVec 16) : EncodingIsCanonical.Statement (.divi rd rs imm) :=
  canonical_of_fields _ 0x1#4 0x6#4 (opField_encodeI _ _ _ _ _) (fn4Field_encodeI _ _ _ _ _) (by decide)
    (by decide) 0#32 (ignoredBits_of_fields _ 0x1#4 0x6#4 (opField_encodeI _ _ _ _ _) (fn4Field_encodeI _ _ _ _ _))
    BitVec.and_zero

theorem EncodingIsCanonical.divui (rd rs : Reg) (imm : BitVec 16) : EncodingIsCanonical.Statement (.divui rd rs imm) :=
  canonical_of_fields _ 0x1#4 0x7#4 (opField_encodeI _ _ _ _ _) (fn4Field_encodeI _ _ _ _ _) (by decide)
    (by decide) 0#32 (ignoredBits_of_fields _ 0x1#4 0x7#4 (opField_encodeI _ _ _ _ _) (fn4Field_encodeI _ _ _ _ _))
    BitVec.and_zero

theorem EncodingIsCanonical.remi (rd rs : Reg) (imm : BitVec 16) : EncodingIsCanonical.Statement (.remi rd rs imm) :=
  canonical_of_fields _ 0x1#4 0x8#4 (opField_encodeI _ _ _ _ _) (fn4Field_encodeI _ _ _ _ _) (by decide)
    (by decide) 0#32 (ignoredBits_of_fields _ 0x1#4 0x8#4 (opField_encodeI _ _ _ _ _) (fn4Field_encodeI _ _ _ _ _))
    BitVec.and_zero

theorem EncodingIsCanonical.remui (rd rs : Reg) (imm : BitVec 16) : EncodingIsCanonical.Statement (.remui rd rs imm) :=
  canonical_of_fields _ 0x1#4 0x9#4 (opField_encodeI _ _ _ _ _) (fn4Field_encodeI _ _ _ _ _) (by decide)
    (by decide) 0#32 (ignoredBits_of_fields _ 0x1#4 0x9#4 (opField_encodeI _ _ _ _ _) (fn4Field_encodeI _ _ _ _ _))
    BitVec.and_zero

theorem EncodingIsCanonical.slli (rd rs : Reg) (imm : BitVec 16) : EncodingIsCanonical.Statement (.slli rd rs imm) :=
  canonical_of_fields _ 0x1#4 0xa#4 (opField_encodeI _ _ _ _ _) (fn4Field_encodeI _ _ _ _ _) (by decide)
    (by decide) 0#32 (ignoredBits_of_fields _ 0x1#4 0xa#4 (opField_encodeI _ _ _ _ _) (fn4Field_encodeI _ _ _ _ _))
    BitVec.and_zero

theorem EncodingIsCanonical.andi (rd rs : Reg) (imm : BitVec 16) : EncodingIsCanonical.Statement (.andi rd rs imm) :=
  canonical_of_fields _ 0x1#4 0xb#4 (opField_encodeI _ _ _ _ _) (fn4Field_encodeI _ _ _ _ _) (by decide)
    (by decide) 0#32 (ignoredBits_of_fields _ 0x1#4 0xb#4 (opField_encodeI _ _ _ _ _) (fn4Field_encodeI _ _ _ _ _))
    BitVec.and_zero

theorem EncodingIsCanonical.srli (rd rs : Reg) (imm : BitVec 16) : EncodingIsCanonical.Statement (.srli rd rs imm) :=
  canonical_of_fields _ 0x1#4 0xc#4 (opField_encodeI _ _ _ _ _) (fn4Field_encodeI _ _ _ _ _) (by decide)
    (by decide) 0#32 (ignoredBits_of_fields _ 0x1#4 0xc#4 (opField_encodeI _ _ _ _ _) (fn4Field_encodeI _ _ _ _ _))
    BitVec.and_zero

theorem EncodingIsCanonical.ori (rd rs : Reg) (imm : BitVec 16) : EncodingIsCanonical.Statement (.ori rd rs imm) :=
  canonical_of_fields _ 0x1#4 0xd#4 (opField_encodeI _ _ _ _ _) (fn4Field_encodeI _ _ _ _ _) (by decide)
    (by decide) 0#32 (ignoredBits_of_fields _ 0x1#4 0xd#4 (opField_encodeI _ _ _ _ _) (fn4Field_encodeI _ _ _ _ _))
    BitVec.and_zero

theorem EncodingIsCanonical.srai (rd rs : Reg) (imm : BitVec 16) : EncodingIsCanonical.Statement (.srai rd rs imm) :=
  canonical_of_fields _ 0x1#4 0xe#4 (opField_encodeI _ _ _ _ _) (fn4Field_encodeI _ _ _ _ _) (by decide)
    (by decide) 0#32 (ignoredBits_of_fields _ 0x1#4 0xe#4 (opField_encodeI _ _ _ _ _) (fn4Field_encodeI _ _ _ _ _))
    BitVec.and_zero

theorem EncodingIsCanonical.xori (rd rs : Reg) (imm : BitVec 16) : EncodingIsCanonical.Statement (.xori rd rs imm) :=
  canonical_of_fields _ 0x1#4 0xf#4 (opField_encodeI _ _ _ _ _) (fn4Field_encodeI _ _ _ _ _) (by decide)
    (by decide) 0#32 (ignoredBits_of_fields _ 0x1#4 0xf#4 (opField_encodeI _ _ _ _ _) (fn4Field_encodeI _ _ _ _ _))
    BitVec.and_zero

theorem EncodingIsCanonical.slt (rd rs rt : Reg) : EncodingIsCanonical.Statement (.slt rd rs rt) :=
  canonical_of_fields _ 0x2#4 0x0#4 (opField_encodeR _ _ _ _ _) (fn4Field_encodeR _ _ _ _ _) (by decide)
    (by decide) 0x0000FFF0#32 (ignoredBits_of_fields _ 0x2#4 0x0#4 (opField_encodeR _ _ _ _ _) (fn4Field_encodeR _ _ _ _ _))
    (encodeR_spare _ _ _ _ _)

theorem EncodingIsCanonical.sltu (rd rs rt : Reg) : EncodingIsCanonical.Statement (.sltu rd rs rt) :=
  canonical_of_fields _ 0x2#4 0x1#4 (opField_encodeR _ _ _ _ _) (fn4Field_encodeR _ _ _ _ _) (by decide)
    (by decide) 0x0000FFF0#32 (ignoredBits_of_fields _ 0x2#4 0x1#4 (opField_encodeR _ _ _ _ _) (fn4Field_encodeR _ _ _ _ _))
    (encodeR_spare _ _ _ _ _)

theorem EncodingIsCanonical.sgt (rd rs rt : Reg) : EncodingIsCanonical.Statement (.sgt rd rs rt) :=
  canonical_of_fields _ 0x2#4 0x2#4 (opField_encodeR _ _ _ _ _) (fn4Field_encodeR _ _ _ _ _) (by decide)
    (by decide) 0x0000FFF0#32 (ignoredBits_of_fields _ 0x2#4 0x2#4 (opField_encodeR _ _ _ _ _) (fn4Field_encodeR _ _ _ _ _))
    (encodeR_spare _ _ _ _ _)

theorem EncodingIsCanonical.sgtu (rd rs rt : Reg) : EncodingIsCanonical.Statement (.sgtu rd rs rt) :=
  canonical_of_fields _ 0x2#4 0x3#4 (opField_encodeR _ _ _ _ _) (fn4Field_encodeR _ _ _ _ _) (by decide)
    (by decide) 0x0000FFF0#32 (ignoredBits_of_fields _ 0x2#4 0x3#4 (opField_encodeR _ _ _ _ _) (fn4Field_encodeR _ _ _ _ _))
    (encodeR_spare _ _ _ _ _)

theorem EncodingIsCanonical.sle (rd rs rt : Reg) : EncodingIsCanonical.Statement (.sle rd rs rt) :=
  canonical_of_fields _ 0x2#4 0x4#4 (opField_encodeR _ _ _ _ _) (fn4Field_encodeR _ _ _ _ _) (by decide)
    (by decide) 0x0000FFF0#32 (ignoredBits_of_fields _ 0x2#4 0x4#4 (opField_encodeR _ _ _ _ _) (fn4Field_encodeR _ _ _ _ _))
    (encodeR_spare _ _ _ _ _)

theorem EncodingIsCanonical.sleu (rd rs rt : Reg) : EncodingIsCanonical.Statement (.sleu rd rs rt) :=
  canonical_of_fields _ 0x2#4 0x5#4 (opField_encodeR _ _ _ _ _) (fn4Field_encodeR _ _ _ _ _) (by decide)
    (by decide) 0x0000FFF0#32 (ignoredBits_of_fields _ 0x2#4 0x5#4 (opField_encodeR _ _ _ _ _) (fn4Field_encodeR _ _ _ _ _))
    (encodeR_spare _ _ _ _ _)

theorem EncodingIsCanonical.sge (rd rs rt : Reg) : EncodingIsCanonical.Statement (.sge rd rs rt) :=
  canonical_of_fields _ 0x2#4 0x6#4 (opField_encodeR _ _ _ _ _) (fn4Field_encodeR _ _ _ _ _) (by decide)
    (by decide) 0x0000FFF0#32 (ignoredBits_of_fields _ 0x2#4 0x6#4 (opField_encodeR _ _ _ _ _) (fn4Field_encodeR _ _ _ _ _))
    (encodeR_spare _ _ _ _ _)

theorem EncodingIsCanonical.sgeu (rd rs rt : Reg) : EncodingIsCanonical.Statement (.sgeu rd rs rt) :=
  canonical_of_fields _ 0x2#4 0x7#4 (opField_encodeR _ _ _ _ _) (fn4Field_encodeR _ _ _ _ _) (by decide)
    (by decide) 0x0000FFF0#32 (ignoredBits_of_fields _ 0x2#4 0x7#4 (opField_encodeR _ _ _ _ _) (fn4Field_encodeR _ _ _ _ _))
    (encodeR_spare _ _ _ _ _)

theorem EncodingIsCanonical.seq (rd rs rt : Reg) : EncodingIsCanonical.Statement (.seq rd rs rt) :=
  canonical_of_fields _ 0x2#4 0x8#4 (opField_encodeR _ _ _ _ _) (fn4Field_encodeR _ _ _ _ _) (by decide)
    (by decide) 0x0000FFF0#32 (ignoredBits_of_fields _ 0x2#4 0x8#4 (opField_encodeR _ _ _ _ _) (fn4Field_encodeR _ _ _ _ _))
    (encodeR_spare _ _ _ _ _)

theorem EncodingIsCanonical.sequ (rd rs rt : Reg) : EncodingIsCanonical.Statement (.sequ rd rs rt) :=
  canonical_of_fields _ 0x2#4 0x9#4 (opField_encodeR _ _ _ _ _) (fn4Field_encodeR _ _ _ _ _) (by decide)
    (by decide) 0x0000FFF0#32 (ignoredBits_of_fields _ 0x2#4 0x9#4 (opField_encodeR _ _ _ _ _) (fn4Field_encodeR _ _ _ _ _))
    (encodeR_spare _ _ _ _ _)

theorem EncodingIsCanonical.sne (rd rs rt : Reg) : EncodingIsCanonical.Statement (.sne rd rs rt) :=
  canonical_of_fields _ 0x2#4 0xa#4 (opField_encodeR _ _ _ _ _) (fn4Field_encodeR _ _ _ _ _) (by decide)
    (by decide) 0x0000FFF0#32 (ignoredBits_of_fields _ 0x2#4 0xa#4 (opField_encodeR _ _ _ _ _) (fn4Field_encodeR _ _ _ _ _))
    (encodeR_spare _ _ _ _ _)

theorem EncodingIsCanonical.sneu (rd rs rt : Reg) : EncodingIsCanonical.Statement (.sneu rd rs rt) :=
  canonical_of_fields _ 0x2#4 0xb#4 (opField_encodeR _ _ _ _ _) (fn4Field_encodeR _ _ _ _ _) (by decide)
    (by decide) 0x0000FFF0#32 (ignoredBits_of_fields _ 0x2#4 0xb#4 (opField_encodeR _ _ _ _ _) (fn4Field_encodeR _ _ _ _ _))
    (encodeR_spare _ _ _ _ _)

theorem EncodingIsCanonical.brk : EncodingIsCanonical.Statement (.brk) :=
  canonical_of_fields _ 0x2#4 0xc#4 (opField_encodeR _ _ _ _ _) (fn4Field_encodeR _ _ _ _ _) (by decide)
    (by decide) 0x0FF0FFFF#32 (ignoredBits_of_fields _ 0x2#4 0xc#4 (opField_encodeR _ _ _ _ _) (fn4Field_encodeR _ _ _ _ _))
    (encodeR_bare _ _)

theorem EncodingIsCanonical.syscall : EncodingIsCanonical.Statement (.syscall) :=
  canonical_of_fields _ 0x2#4 0xd#4 (opField_encodeR _ _ _ _ _) (fn4Field_encodeR _ _ _ _ _) (by decide)
    (by decide) 0x0FF0FFFF#32 (ignoredBits_of_fields _ 0x2#4 0xd#4 (opField_encodeR _ _ _ _ _) (fn4Field_encodeR _ _ _ _ _))
    (encodeR_bare _ _)

theorem EncodingIsCanonical.rfe : EncodingIsCanonical.Statement (.rfe) :=
  canonical_of_fields _ 0x2#4 0xe#4 (opField_encodeR _ _ _ _ _) (fn4Field_encodeR _ _ _ _ _) (by decide)
    (by decide) 0x0FF0FFFF#32 (ignoredBits_of_fields _ 0x2#4 0xe#4 (opField_encodeR _ _ _ _ _) (fn4Field_encodeR _ _ _ _ _))
    (encodeR_bare _ _)

theorem EncodingIsCanonical.slti (rd rs : Reg) (imm : BitVec 16) : EncodingIsCanonical.Statement (.slti rd rs imm) :=
  canonical_of_fields _ 0x3#4 0x0#4 (opField_encodeI _ _ _ _ _) (fn4Field_encodeI _ _ _ _ _) (by decide)
    (by decide) 0#32 (ignoredBits_of_fields _ 0x3#4 0x0#4 (opField_encodeI _ _ _ _ _) (fn4Field_encodeI _ _ _ _ _))
    BitVec.and_zero

theorem EncodingIsCanonical.sltui (rd rs : Reg) (imm : BitVec 16) : EncodingIsCanonical.Statement (.sltui rd rs imm) :=
  canonical_of_fields _ 0x3#4 0x1#4 (opField_encodeI _ _ _ _ _) (fn4Field_encodeI _ _ _ _ _) (by decide)
    (by decide) 0#32 (ignoredBits_of_fields _ 0x3#4 0x1#4 (opField_encodeI _ _ _ _ _) (fn4Field_encodeI _ _ _ _ _))
    BitVec.and_zero

theorem EncodingIsCanonical.sgti (rd rs : Reg) (imm : BitVec 16) : EncodingIsCanonical.Statement (.sgti rd rs imm) :=
  canonical_of_fields _ 0x3#4 0x2#4 (opField_encodeI _ _ _ _ _) (fn4Field_encodeI _ _ _ _ _) (by decide)
    (by decide) 0#32 (ignoredBits_of_fields _ 0x3#4 0x2#4 (opField_encodeI _ _ _ _ _) (fn4Field_encodeI _ _ _ _ _))
    BitVec.and_zero

theorem EncodingIsCanonical.sgtui (rd rs : Reg) (imm : BitVec 16) : EncodingIsCanonical.Statement (.sgtui rd rs imm) :=
  canonical_of_fields _ 0x3#4 0x3#4 (opField_encodeI _ _ _ _ _) (fn4Field_encodeI _ _ _ _ _) (by decide)
    (by decide) 0#32 (ignoredBits_of_fields _ 0x3#4 0x3#4 (opField_encodeI _ _ _ _ _) (fn4Field_encodeI _ _ _ _ _))
    BitVec.and_zero

theorem EncodingIsCanonical.slei (rd rs : Reg) (imm : BitVec 16) : EncodingIsCanonical.Statement (.slei rd rs imm) :=
  canonical_of_fields _ 0x3#4 0x4#4 (opField_encodeI _ _ _ _ _) (fn4Field_encodeI _ _ _ _ _) (by decide)
    (by decide) 0#32 (ignoredBits_of_fields _ 0x3#4 0x4#4 (opField_encodeI _ _ _ _ _) (fn4Field_encodeI _ _ _ _ _))
    BitVec.and_zero

theorem EncodingIsCanonical.sleui (rd rs : Reg) (imm : BitVec 16) : EncodingIsCanonical.Statement (.sleui rd rs imm) :=
  canonical_of_fields _ 0x3#4 0x5#4 (opField_encodeI _ _ _ _ _) (fn4Field_encodeI _ _ _ _ _) (by decide)
    (by decide) 0#32 (ignoredBits_of_fields _ 0x3#4 0x5#4 (opField_encodeI _ _ _ _ _) (fn4Field_encodeI _ _ _ _ _))
    BitVec.and_zero

theorem EncodingIsCanonical.sgei (rd rs : Reg) (imm : BitVec 16) : EncodingIsCanonical.Statement (.sgei rd rs imm) :=
  canonical_of_fields _ 0x3#4 0x6#4 (opField_encodeI _ _ _ _ _) (fn4Field_encodeI _ _ _ _ _) (by decide)
    (by decide) 0#32 (ignoredBits_of_fields _ 0x3#4 0x6#4 (opField_encodeI _ _ _ _ _) (fn4Field_encodeI _ _ _ _ _))
    BitVec.and_zero

theorem EncodingIsCanonical.sgeui (rd rs : Reg) (imm : BitVec 16) : EncodingIsCanonical.Statement (.sgeui rd rs imm) :=
  canonical_of_fields _ 0x3#4 0x7#4 (opField_encodeI _ _ _ _ _) (fn4Field_encodeI _ _ _ _ _) (by decide)
    (by decide) 0#32 (ignoredBits_of_fields _ 0x3#4 0x7#4 (opField_encodeI _ _ _ _ _) (fn4Field_encodeI _ _ _ _ _))
    BitVec.and_zero

theorem EncodingIsCanonical.seqi (rd rs : Reg) (imm : BitVec 16) : EncodingIsCanonical.Statement (.seqi rd rs imm) :=
  canonical_of_fields _ 0x3#4 0x8#4 (opField_encodeI _ _ _ _ _) (fn4Field_encodeI _ _ _ _ _) (by decide)
    (by decide) 0#32 (ignoredBits_of_fields _ 0x3#4 0x8#4 (opField_encodeI _ _ _ _ _) (fn4Field_encodeI _ _ _ _ _))
    BitVec.and_zero

theorem EncodingIsCanonical.sequi (rd rs : Reg) (imm : BitVec 16) : EncodingIsCanonical.Statement (.sequi rd rs imm) :=
  canonical_of_fields _ 0x3#4 0x9#4 (opField_encodeI _ _ _ _ _) (fn4Field_encodeI _ _ _ _ _) (by decide)
    (by decide) 0#32 (ignoredBits_of_fields _ 0x3#4 0x9#4 (opField_encodeI _ _ _ _ _) (fn4Field_encodeI _ _ _ _ _))
    BitVec.and_zero

theorem EncodingIsCanonical.snei (rd rs : Reg) (imm : BitVec 16) : EncodingIsCanonical.Statement (.snei rd rs imm) :=
  canonical_of_fields _ 0x3#4 0xa#4 (opField_encodeI _ _ _ _ _) (fn4Field_encodeI _ _ _ _ _) (by decide)
    (by decide) 0#32 (ignoredBits_of_fields _ 0x3#4 0xa#4 (opField_encodeI _ _ _ _ _) (fn4Field_encodeI _ _ _ _ _))
    BitVec.and_zero

theorem EncodingIsCanonical.sneui (rd rs : Reg) (imm : BitVec 16) : EncodingIsCanonical.Statement (.sneui rd rs imm) :=
  canonical_of_fields _ 0x3#4 0xb#4 (opField_encodeI _ _ _ _ _) (fn4Field_encodeI _ _ _ _ _) (by decide)
    (by decide) 0#32 (ignoredBits_of_fields _ 0x3#4 0xb#4 (opField_encodeI _ _ _ _ _) (fn4Field_encodeI _ _ _ _ _))
    BitVec.and_zero

theorem EncodingIsCanonical.movgs (sd : SReg) (rs : Reg) : EncodingIsCanonical.Statement (.movgs sd rs) :=
  canonical_of_fields _ 0x3#4 0xc#4 (opField_encodeI _ _ _ _ _) (fn4Field_encodeI _ _ _ _ _) (by decide)
    (by decide) 0x0000FFFF#32 (ignoredBits_of_fields _ 0x3#4 0xc#4 (opField_encodeI _ _ _ _ _) (fn4Field_encodeI _ _ _ _ _))
    (encodeI_move _ _ _ _)

theorem EncodingIsCanonical.movsg (rd : Reg) (ss : SReg) : EncodingIsCanonical.Statement (.movsg rd ss) :=
  canonical_of_fields _ 0x3#4 0xd#4 (opField_encodeI _ _ _ _ _) (fn4Field_encodeI _ _ _ _ _) (by decide)
    (by decide) 0x0000FFFF#32 (ignoredBits_of_fields _ 0x3#4 0xd#4 (opField_encodeI _ _ _ _ _) (fn4Field_encodeI _ _ _ _ _))
    (encodeI_move _ _ _ _)

theorem EncodingIsCanonical.lhi (rd : Reg) (imm : BitVec 16) : EncodingIsCanonical.Statement (.lhi rd imm) :=
  canonical_of_fields _ 0x3#4 0xe#4 (opField_encodeI _ _ _ _ _) (fn4Field_encodeI _ _ _ _ _) (by decide)
    (by decide) 0x00F00000#32 (ignoredBits_of_fields _ 0x3#4 0xe#4 (opField_encodeI _ _ _ _ _) (fn4Field_encodeI _ _ _ _ _))
    (encodeI_high _ _ _ _)

theorem EncodingIsCanonical.j (target : Addr) : EncodingIsCanonical.Statement (.j target) :=
  canonical_of_opcode _ 0x4#4 (opField_encodeJ _ _ _ _) (by decide) (by decide) 0x0FF00000#32 (by decide)
    (encodeJ_target _ _)

theorem EncodingIsCanonical.jr (rs : Reg) : EncodingIsCanonical.Statement (.jr rs) :=
  canonical_of_opcode _ 0x5#4 (opField_encodeJ _ _ _ _) (by decide) (by decide) 0x0F0FFFFF#32 (by decide)
    (encodeJ_register _ _)

theorem EncodingIsCanonical.jal (target : Addr) : EncodingIsCanonical.Statement (.jal target) :=
  canonical_of_opcode _ 0x6#4 (opField_encodeJ _ _ _ _) (by decide) (by decide) 0x0FF00000#32 (by decide)
    (encodeJ_target _ _)

theorem EncodingIsCanonical.jalr (rs : Reg) : EncodingIsCanonical.Statement (.jalr rs) :=
  canonical_of_opcode _ 0x7#4 (opField_encodeJ _ _ _ _) (by decide) (by decide) 0x0F0FFFFF#32 (by decide)
    (encodeJ_register _ _)

theorem EncodingIsCanonical.lw (rd rs : Reg) (offset : BitVec 20) : EncodingIsCanonical.Statement (.lw rd rs offset) :=
  canonical_of_opcode _ 0x8#4 (opField_encodeJ _ _ _ _) (by decide) (by decide) 0#32 (by decide)
    BitVec.and_zero

theorem EncodingIsCanonical.sw (rd rs : Reg) (offset : BitVec 20) : EncodingIsCanonical.Statement (.sw rd rs offset) :=
  canonical_of_opcode _ 0x9#4 (opField_encodeJ _ _ _ _) (by decide) (by decide) 0#32 (by decide)
    BitVec.and_zero

theorem EncodingIsCanonical.beqz (rs : Reg) (offset : BitVec 20) : EncodingIsCanonical.Statement (.beqz rs offset) :=
  canonical_of_opcode _ 0xa#4 (opField_encodeJ _ _ _ _) (by decide) (by decide) 0x0F000000#32 (by decide)
    (encodeJ_branch _ _ _)

theorem EncodingIsCanonical.bnez (rs : Reg) (offset : BitVec 20) : EncodingIsCanonical.Statement (.bnez rs offset) :=
  canonical_of_opcode _ 0xb#4 (opField_encodeJ _ _ _ _) (by decide) (by decide) 0x0F000000#32 (by decide)
    (encodeJ_branch _ _ _)

theorem EncodingIsCanonical.la (rd : Reg) (address : Addr) : EncodingIsCanonical.Statement (.la rd address) :=
  canonical_of_opcode _ 0xc#4 (opField_encodeJ _ _ _ _) (by decide) (by decide) 0x00F00000#32 (by decide)
    (encodeJ_address _ _ _)

end Sys2Proof.Laws
end

