-- ==== Sys2Proof/Laws/Results.lean ====
section
/-! SUPPORT. From the shape of a meaning to its whole effect: an instruction that ends in `writeResult` writes its register or
raises ARITH; the values of extended immediates, addresses and shifts; where a signed result faults. -/

namespace Sys2Proof.Machine

/-- An instruction that ends in `writeResult` with a result writes it and does nothing else. -/
theorem executesTo_of_result {i : Instr} {rd : Reg} {v : Word} {s : State} {x : Option Word}
    (he : exec i s = .next (writeResult rd x s)) (hx : x = some v) : ExecutesTo i s (WritesRegister rd v) :=
  ⟨_, he, by rw [hx]; exact writesRegister_setReg_complete _ _ _⟩

/-- An instruction that ends in `writeResult` without a result raises ARITH and does nothing else. -/
theorem executesTo_of_noResult {i : Instr} {rd : Reg} {s : State} {x : Option Word}
    (he : exec i s = .next (writeResult rd x s)) (hx : x = none) : ExecutesTo i s (OnlyRaises arithBit) :=
  ⟨_, he, by rw [hx]; exact onlyRaises_raise _ _⟩

/-- An instruction that ends in `writeResult`, faulting exactly when `faults` holds. -/
theorem resultOrArith_of_writeResult {i : Instr} {rd : Reg} {faults : Prop} {v : Word} {s : State} {x : Option Word}
    (he : exec i s = .next (writeResult rd x s)) (hv : ¬ faults → x = some v) (hn : faults → x = none) :
    ResultOrArith i rd faults v s :=
  ⟨fun h => executesTo_of_result he (hv h), fun h => executesTo_of_noResult he (hn h)⟩

/-- A signed result inside the range is returned (R134). -/
theorem signedResult_inside {r : Int} (h : -2 ^ 31 ≤ r ∧ r ≤ 2 ^ 31 - 1) : signedResult r = some (BitVec.ofInt 32 r) := by
  unfold signedResult
  rw [if_pos (by omega)]

/-- A signed result outside the range faults (R134). -/
theorem signedResult_outside {r : Int} (h : r < -2 ^ 31 ∨ 2 ^ 31 - 1 < r) : signedResult r = none := by
  unfold signedResult
  rw [if_neg (by omega)]

/-- A sign-extended immediate has the immediate's signed value (R9). -/
theorem toInt_sext16 (imm : BitVec 16) : (sext16 imm).toInt = imm.toInt := by
  unfold sext16
  rw [BitVec.toInt_signExtend_of_le (by decide)]

/-- A zero-extended immediate has the immediate's unsigned value (R9). -/
theorem toNat_zext16 (imm : BitVec 16) : (zext16 imm).toNat = imm.toNat := by
  simp [zext16]
  omega

/-- A word's signed value, reduced to 20 bits, is its low 20 bits (R9). -/
theorem ofInt_toInt_setWidth (x : Word) : BitVec.ofInt 20 x.toInt = x.setWidth 20 := by
  apply BitVec.eq_of_toNat_eq
  rw [BitVec.toNat_ofInt, BitVec.toNat_setWidth, BitVec.toInt_eq_toNat_cond]
  split <;> omega

/-- The low 20 bits of a sign-extended 20-bit field are the field (R9). -/
theorem setWidth_sext20 (o : BitVec 20) : (sext20 o).setWidth 20 = o := by
  unfold sext20
  apply BitVec.eq_of_getLsbD_eq
  intro i hi
  rw [BitVec.getLsbD_setWidth, BitVec.getLsbD_signExtend]
  have : i < 32 := by omega
  simp [hi, this]

/-- A word plus a signed displacement, reduced to 20 bits, is the sum of the signed values (R210, R205). -/
theorem a20_add_sext20 (x : Word) (o : BitVec 20) : a20 (x + sext20 o) = BitVec.ofInt 20 (x.toInt + o.toInt) := by
  unfold a20
  rw [BitVec.setWidth_add _ _ (by decide), setWidth_sext20, BitVec.ofInt_add, ofInt_toInt_setWidth, BitVec.ofInt_toInt]

/-- The effective address as a number (R210). -/
theorem effectiveAddress_value (rs : Reg) (o : BitVec 20) (s : State) :
    effectiveAddress rs o s = BitVec.ofInt 20 ((s.reg rs).toInt + o.toInt) := a20_add_sext20 _ _

/-- The branch target as a number (R205). -/
theorem branchTarget_value (o : BitVec 20) (s : State) : branchTarget o s = BitVec.ofInt 20 (s.pc.toNat + o.toInt) := by
  unfold branchTarget
  rw [a20_add_sext20]
  congr 2
  have : s.pc.toNat < 2 ^ 20 := s.pc.isLt
  simp only [zext20]
  rw [BitVec.toInt_eq_toNat_of_lt] <;> rw [BitVec.toNat_setWidth, Nat.mod_eq_of_lt (by omega)]
  omega

/-- A left shift as a product modulo 2^32 (R156). -/
theorem shiftLeft_value (a : Word) (n : Nat) : a <<< n = BitVec.ofNat 32 (a.toNat * 2 ^ n) := by
  apply BitVec.eq_of_toNat_eq
  simp [BitVec.toNat_shiftLeft, Nat.shiftLeft_eq]

/-- A logical right shift as a quotient (R160). -/
theorem shiftRight_value (a : Word) (n : Nat) : a >>> n = BitVec.ofNat 32 (a.toNat / 2 ^ n) := by
  have : a.toNat / 2 ^ n < 2 ^ 32 := Nat.lt_of_le_of_lt (Nat.div_le_self _ _) a.isLt
  apply BitVec.eq_of_toNat_eq
  rw [BitVec.toNat_ushiftRight, Nat.shiftRight_eq_div_pow, BitVec.toNat_ofNat, Nat.mod_eq_of_lt this]

/-- An arithmetic right shift as a quotient rounded down (R164). -/
theorem sshiftRight_value (a : Word) (n : Nat) : a.sshiftRight n = BitVec.ofInt 32 (a.toInt / 2 ^ n) := by
  rw [BitVec.sshiftRight, Int.shiftRight_eq_div_pow]
  rfl

/-- The shift count of a register operand as a number (R156). -/
theorem shiftCount_value (b : Word) : shiftCount b = b.toNat % 32 := by simp [shiftCount, BitVec.extractLsb'_toNat]

/-- The shift count of a sign-extended immediate (R157, R165). -/
theorem shiftCount_sext16 (imm : BitVec 16) : shiftCount (sext16 imm) = imm.toNat % 32 := by
  have : (imm.signExtend 32).extractLsb' 0 5 = imm.extractLsb' 0 5 := by
    apply BitVec.eq_of_getLsbD_eq
    intro i hi
    simp only [BitVec.getLsbD_extractLsb', BitVec.getLsbD_signExtend]
    interval_cases i <;> simp
  unfold shiftCount sext16
  rw [this]
  simp [BitVec.extractLsb'_toNat]

/-- The shift count of a zero-extended immediate (R161). -/
theorem shiftCount_zext16 (imm : BitVec 16) : shiftCount (zext16 imm) = imm.toNat % 32 := by
  rw [shiftCount_value, toNat_zext16]

/-- A comparison's result, by whether it holds (R170). -/
theorem testResult_cases (b : Bool) : testResult b = 1#32 ∧ b = true ∨ testResult b = 0#32 ∧ b = false := by
  cases b
  · exact .inr ⟨rfl, rfl⟩
  · exact .inl ⟨rfl, rfl⟩

end Sys2Proof.Machine
end

