-- ==== Sys2Proof/Tests/Slice0.lean ====
section
/-! SUPPORT. Tests: the word checks, the decoder on words written out in the spec, one step of every instruction on the spec's
own examples and vectors, and for every statement a concrete state that meets its hypotheses. Expected values are those of
spec/ (the examples of the rules and the vectors V-… of 95_test_vectors.md), not the model's. -/

namespace Sys2Proof.Tests

open Sys2Proof.Machine

/-- Kernel mode, the word `w` in RAM at `pc` = 0x00100, `x[1]` = a, `x[2]` = b. -/
def kernelState (w a b : Word) : State :=
  { ((State.reset.setReg 1#4 a).setReg 2#4 b).poke 0x100 w with pc := 0x100#20 }

/-- User mode of section 2.7: `rbase` = 0x2000, `ptable` = 0x1000, page 8 permitted, the word `w` at logical 0x00010. -/
def userState (w a b : Word) : State :=
  let s := (State.reset.setReg 1#4 a).setReg 2#4 b
  let u := ((s.setSreg cctrlSlot 0#32).setSreg rbaseSlot 0x2000#32).setSreg ptableSlot 0x1000#32
  { (u.poke 0x1000 0x00000100#32).poke 0x2010 w with pc := 0x00010#20 }

/-- The same machine with `rfe` privileged. -/
def strict (s : State) : State := { s with cfg := { s.cfg with rfePrivileged := true } }

/-- The state after one step. -/
def after (s : State) : State :=
  match step s with
  | .next t => t
  | .fault _ => s
  | .refused _ => s

/-- The state after `exec`. -/
def afterExec (i : Instr) (s : State) : State :=
  match exec i s with
  | .next t => t
  | .fault _ => s
  | .refused _ => s

/-- Whether a step or an instruction answered a next state. -/
def isNext (o : Host.Outcome State Fault Refusal) : Bool :=
  match o with
  | .next _ => true
  | .fault _ => false
  | .refused _ => false

/-! ### The word checks: an ill-formed word for each (R111, R112, R113; V-S18 to V-S24) -/

theorem test_opcodeDefined_refuses :
    opcodeDefined 0xD0000000#32 = false ∧ opcodeDefined 0xE1234567#32 = false ∧ opcodeDefined 0xFFFFFFFF#32 = false := by
  decide

theorem test_functionDefined_refuses :
    functionDefined 0x201F0000#32 = false ∧ functionDefined 0x301F0000#32 = false ∧
    functionDefined 0x001F0000#32 = true := by decide

theorem test_wellFormedWord_refuses :
    wellFormedWord 0xD0000000#32 = false ∧ wellFormedWord 0x201F0000#32 = false ∧ wellFormedWord 0x001F0000#32 = true := by
  decide

theorem test_ignoredBitsClear_refuses :
    ignoredBitsClear 0x200D0ABC#32 = false ∧ ignoredBitsClear 0x200D0000#32 = true ∧
    wellFormedWord 0x200D0ABC#32 = true := by decide

theorem test_decode_undefined :
    decode 0xD0000000#32 = .error (.opcode 0xD#4) ∧ decode 0xE1234567#32 = .error (.opcode 0xE#4) ∧
    decode 0xFFFFFFFF#32 = .error (.opcode 0xF#4) ∧ decode 0x201F0000#32 = .error (.function 2#4) ∧
    decode 0x301F0000#32 = .error (.function 3#4) ∧ decode 0x001F0000#32 = .ok (.xor 0#4 1#4 0#4) ∧
    decode 0x200D0ABC#32 = .ok .syscall := by decide

/-! ### Decoding: a word of every constructor, from the examples of the instruction rules -/

theorem test_decode_arithmetic_register :
    decode 0x03100002#32 = .ok (.add 3#4 1#4 2#4) ∧
    decode 0x03110002#32 = .ok (.addu 3#4 1#4 2#4) ∧
    decode 0x03120002#32 = .ok (.sub 3#4 1#4 2#4) ∧
    decode 0x03130002#32 = .ok (.subu 3#4 1#4 2#4) ∧
    decode 0x03140002#32 = .ok (.mult 3#4 1#4 2#4) ∧
    decode 0x03150002#32 = .ok (.multu 3#4 1#4 2#4) ∧
    decode 0x03160002#32 = .ok (.div 3#4 1#4 2#4) ∧
    decode 0x03170002#32 = .ok (.divu 3#4 1#4 2#4) ∧
    decode 0x03180002#32 = .ok (.rem 3#4 1#4 2#4) ∧
    decode 0x03190002#32 = .ok (.remu 3#4 1#4 2#4) ∧
    decode 0x031A0002#32 = .ok (.sll 3#4 1#4 2#4) ∧
    decode 0x031B0002#32 = .ok (.and 3#4 1#4 2#4) ∧
    decode 0x031C0002#32 = .ok (.srl 3#4 1#4 2#4) ∧
    decode 0x031D0002#32 = .ok (.or 3#4 1#4 2#4) ∧
    decode 0x031E0002#32 = .ok (.sra 3#4 1#4 2#4) ∧
    decode 0x031F0002#32 = .ok (.xor 3#4 1#4 2#4) := by decide

theorem test_decode_arithmetic_immediate :
    decode 0x1310FFFF#32 = .ok (.addi 3#4 1#4 0xFFFF#16) ∧
    decode 0x1311FFFF#32 = .ok (.addui 3#4 1#4 0xFFFF#16) ∧
    decode 0x13120001#32 = .ok (.subi 3#4 1#4 0x0001#16) ∧
    decode 0x13130001#32 = .ok (.subui 3#4 1#4 0x0001#16) ∧
    decode 0x1314FFFD#32 = .ok (.multi 3#4 1#4 0xFFFD#16) ∧
    decode 0x1315FFFF#32 = .ok (.multui 3#4 1#4 0xFFFF#16) ∧
    decode 0x1316FFFE#32 = .ok (.divi 3#4 1#4 0xFFFE#16) ∧
    decode 0x1317FFFE#32 = .ok (.divui 3#4 1#4 0xFFFE#16) ∧
    decode 0x1318FFFE#32 = .ok (.remi 3#4 1#4 0xFFFE#16) ∧
    decode 0x1319000A#32 = .ok (.remui 3#4 1#4 0x000A#16) ∧
    decode 0x131A0004#32 = .ok (.slli 3#4 1#4 0x0004#16) ∧
    decode 0x131BFF00#32 = .ok (.andi 3#4 1#4 0xFF00#16) ∧
    decode 0x131C0004#32 = .ok (.srli 3#4 1#4 0x0004#16) ∧
    decode 0x131D8000#32 = .ok (.ori 3#4 1#4 0x8000#16) ∧
    decode 0x131E0004#32 = .ok (.srai 3#4 1#4 0x0004#16) ∧
    decode 0x131FFFFF#32 = .ok (.xori 3#4 1#4 0xFFFF#16) := by decide

theorem test_decode_test_register :
    decode 0x23100002#32 = .ok (.slt 3#4 1#4 2#4) ∧
    decode 0x23110002#32 = .ok (.sltu 3#4 1#4 2#4) ∧
    decode 0x23120002#32 = .ok (.sgt 3#4 1#4 2#4) ∧
    decode 0x23130002#32 = .ok (.sgtu 3#4 1#4 2#4) ∧
    decode 0x23140002#32 = .ok (.sle 3#4 1#4 2#4) ∧
    decode 0x23150002#32 = .ok (.sleu 3#4 1#4 2#4) ∧
    decode 0x23160002#32 = .ok (.sge 3#4 1#4 2#4) ∧
    decode 0x23170002#32 = .ok (.sgeu 3#4 1#4 2#4) ∧
    decode 0x23180002#32 = .ok (.seq 3#4 1#4 2#4) ∧
    decode 0x23190002#32 = .ok (.sequ 3#4 1#4 2#4) ∧
    decode 0x231A0002#32 = .ok (.sne 3#4 1#4 2#4) ∧
    decode 0x231B0002#32 = .ok (.sneu 3#4 1#4 2#4) := by decide

theorem test_decode_test_immediate :
    decode 0x3310FFFF#32 = .ok (.slti 3#4 1#4 0xFFFF#16) ∧
    decode 0x3311FFFF#32 = .ok (.sltui 3#4 1#4 0xFFFF#16) ∧
    decode 0x3312FFFF#32 = .ok (.sgti 3#4 1#4 0xFFFF#16) ∧
    decode 0x3313FFFF#32 = .ok (.sgtui 3#4 1#4 0xFFFF#16) ∧
    decode 0x3314FFFF#32 = .ok (.slei 3#4 1#4 0xFFFF#16) ∧
    decode 0x3315FFFF#32 = .ok (.sleui 3#4 1#4 0xFFFF#16) ∧
    decode 0x3316FFFF#32 = .ok (.sgei 3#4 1#4 0xFFFF#16) ∧
    decode 0x3317FFFF#32 = .ok (.sgeui 3#4 1#4 0xFFFF#16) ∧
    decode 0x3318FFFF#32 = .ok (.seqi 3#4 1#4 0xFFFF#16) ∧
    decode 0x3319FFFF#32 = .ok (.sequi 3#4 1#4 0xFFFF#16) ∧
    decode 0x331AFFFF#32 = .ok (.snei 3#4 1#4 0xFFFF#16) ∧
    decode 0x331BFFFF#32 = .ok (.sneui 3#4 1#4 0xFFFF#16) ∧
    decode 0x330E1234#32 = .ok (.lhi 3#4 0x1234#16) := by decide

theorem test_decode_control :
    decode 0x40080010#32 = .ok (.j 0x80010#20) ∧ decode 0x50F00000#32 = .ok (.jr 15#4) ∧
    decode 0x60000100#32 = .ok (.jal 0x00100#20) ∧ decode 0x70400000#32 = .ok (.jalr 4#4) ∧
    decode 0xA0100003#32 = .ok (.beqz 1#4 3#20) ∧ decode 0xB01FFFFE#32 = .ok (.bnez 1#4 0xFFFFE#20) := by decide

theorem test_decode_memory :
    decode 0x83000010#32 = .ok (.lw 3#4 0#4 0x10#20) ∧ decode 0x834FFFFF#32 = .ok (.lw 3#4 4#4 0xFFFFF#20) ∧
    decode 0x92000010#32 = .ok (.sw 2#4 0#4 0x10#20) ∧ decode 0xC70FFFFF#32 = .ok (.la 7#4 0xFFFFF#20) := by decide

theorem test_decode_system :
    decode 0x200C0000#32 = .ok .brk ∧ decode 0x200D0000#32 = .ok .syscall ∧ decode 0x200E0000#32 = .ok .rfe ∧
    decode 0x341C0000#32 = .ok (.movgs 4#4 1#4) ∧ decode 0x325D0000#32 = .ok (.movsg 2#4 5#4) := by decide

theorem test_decodeTableWord :
    decodeTableWord 32 0x03100002 = some (.add 3#4 1#4 2#4) ∧ decodeTableWord 32 0xFFFFFFFF = none := by decide

/-! ### One step of every arithmetic and test instruction (the examples of R136 to R196) -/

theorem test_add : (after (kernelState 0x03100002#32 0x5#32 0x7#32)).reg 3#4 = 0xC#32 := by decide
theorem test_addi : (after (kernelState 0x1310FFFF#32 0x5#32 0x0#32)).reg 3#4 = 0x4#32 := by decide
theorem test_addu : (after (kernelState 0x03110002#32 0xFFFFFFFF#32 0x2#32)).reg 3#4 = 0x1#32 := by decide
theorem test_addui : (after (kernelState 0x1311FFFF#32 0x1#32 0x0#32)).reg 3#4 = 0x10000#32 := by decide
theorem test_sub : (after (kernelState 0x03120002#32 0x5#32 0x7#32)).reg 3#4 = 0xFFFFFFFE#32 := by decide
theorem test_subi : (after (kernelState 0x13120001#32 0x5#32 0x0#32)).reg 3#4 = 0x4#32 := by decide
theorem test_subu : (after (kernelState 0x03130002#32 0x0#32 0x1#32)).reg 3#4 = 0xFFFFFFFF#32 := by decide
theorem test_subui : (after (kernelState 0x13130001#32 0x0#32 0x0#32)).reg 3#4 = 0xFFFFFFFF#32 := by decide
theorem test_mult : (after (kernelState 0x03140002#32 0xFFFFFFFD#32 0x7#32)).reg 3#4 = 0xFFFFFFEB#32 := by decide
theorem test_multi : (after (kernelState 0x1314FFFD#32 0x7#32 0x0#32)).reg 3#4 = 0xFFFFFFEB#32 := by decide
theorem test_multu : (after (kernelState 0x03150002#32 0x10000#32 0x10000#32)).reg 3#4 = 0x0#32 := by decide
theorem test_multui : (after (kernelState 0x1315FFFF#32 0x8001#32 0x0#32)).reg 3#4 = 0x80007FFF#32 := by decide
theorem test_div : (after (kernelState 0x03160002#32 0xFFFFFFF9#32 0x2#32)).reg 3#4 = 0xFFFFFFFD#32 := by decide
theorem test_divi : (after (kernelState 0x1316FFFE#32 0x7#32 0x0#32)).reg 3#4 = 0xFFFFFFFD#32 := by decide
theorem test_divu : (after (kernelState 0x03170002#32 0xFFFFFFF9#32 0x2#32)).reg 3#4 = 0x7FFFFFFC#32 := by decide
theorem test_divui : (after (kernelState 0x1317FFFE#32 0x1FFFC#32 0x0#32)).reg 3#4 = 0x2#32 := by decide
theorem test_rem : (after (kernelState 0x03180002#32 0xFFFFFFF9#32 0x2#32)).reg 3#4 = 0xFFFFFFFF#32 := by decide
theorem test_remi : (after (kernelState 0x1318FFFE#32 0x7#32 0x0#32)).reg 3#4 = 0x1#32 := by decide
theorem test_remu : (after (kernelState 0x03190002#32 0xFFFFFFF9#32 0x2#32)).reg 3#4 = 0x1#32 := by decide
theorem test_remui : (after (kernelState 0x1319000A#32 0x4D2#32 0x0#32)).reg 3#4 = 0x4#32 := by decide
theorem test_sll : (after (kernelState 0x031A0002#32 0x1#32 0x4#32)).reg 3#4 = 0x10#32 := by decide
theorem test_slli : (after (kernelState 0x131A0004#32 0xF#32 0x0#32)).reg 3#4 = 0xF0#32 := by decide
theorem test_and : (after (kernelState 0x031B0002#32 0xFF00FF00#32 0xFF00FF0#32)).reg 3#4 = 0xF000F00#32 := by decide
theorem test_andi : (after (kernelState 0x131BFF00#32 0x12345678#32 0x0#32)).reg 3#4 = 0x5600#32 := by decide
theorem test_srl : (after (kernelState 0x031C0002#32 0x80000000#32 0x4#32)).reg 3#4 = 0x8000000#32 := by decide
theorem test_srli : (after (kernelState 0x131C0004#32 0xF0#32 0x0#32)).reg 3#4 = 0xF#32 := by decide
theorem test_or : (after (kernelState 0x031D0002#32 0xF0#32 0xF#32)).reg 3#4 = 0xFF#32 := by decide
theorem test_ori : (after (kernelState 0x131D8000#32 0x12340000#32 0x0#32)).reg 3#4 = 0x12348000#32 := by decide
theorem test_sra : (after (kernelState 0x031E0002#32 0x80000000#32 0x4#32)).reg 3#4 = 0xF8000000#32 := by decide
theorem test_srai : (after (kernelState 0x131E0004#32 0xFFFFFF00#32 0x0#32)).reg 3#4 = 0xFFFFFFF0#32 := by decide
theorem test_xor : (after (kernelState 0x031F0002#32 0xFF#32 0xF#32)).reg 3#4 = 0xF0#32 := by decide
theorem test_xori : (after (kernelState 0x131FFFFF#32 0x12345678#32 0x0#32)).reg 3#4 = 0x1234A987#32 := by decide
theorem test_slt : (after (kernelState 0x23100002#32 0xFFFFFFFF#32 0x1#32)).reg 3#4 = 0x1#32 := by decide
theorem test_slti : (after (kernelState 0x3310FFFF#32 0xFFFFFFFF#32 0x0#32)).reg 3#4 = 0x0#32 := by decide
theorem test_sltu : (after (kernelState 0x23110002#32 0xFFFFFFFF#32 0x1#32)).reg 3#4 = 0x0#32 := by decide
theorem test_sltui : (after (kernelState 0x3311FFFF#32 0xFFFFFFFF#32 0x0#32)).reg 3#4 = 0x0#32 := by decide
theorem test_sgt : (after (kernelState 0x23120002#32 0xFFFFFFFF#32 0x1#32)).reg 3#4 = 0x0#32 := by decide
theorem test_sgti : (after (kernelState 0x3312FFFF#32 0xFFFFFFFF#32 0x0#32)).reg 3#4 = 0x0#32 := by decide
theorem test_sgtu : (after (kernelState 0x23130002#32 0xFFFFFFFF#32 0x1#32)).reg 3#4 = 0x1#32 := by decide
theorem test_sgtui : (after (kernelState 0x3313FFFF#32 0xFFFFFFFF#32 0x0#32)).reg 3#4 = 0x1#32 := by decide
theorem test_sle : (after (kernelState 0x23140002#32 0xFFFFFFFF#32 0x1#32)).reg 3#4 = 0x1#32 := by decide
theorem test_slei : (after (kernelState 0x3314FFFF#32 0xFFFFFFFF#32 0x0#32)).reg 3#4 = 0x1#32 := by decide
theorem test_sleu : (after (kernelState 0x23150002#32 0xFFFFFFFF#32 0x1#32)).reg 3#4 = 0x0#32 := by decide
theorem test_sleui : (after (kernelState 0x3315FFFF#32 0xFFFFFFFF#32 0x0#32)).reg 3#4 = 0x0#32 := by decide
theorem test_sge : (after (kernelState 0x23160002#32 0xFFFFFFFF#32 0x1#32)).reg 3#4 = 0x0#32 := by decide
theorem test_sgei : (after (kernelState 0x3316FFFF#32 0xFFFFFFFF#32 0x0#32)).reg 3#4 = 0x1#32 := by decide
theorem test_sgeu : (after (kernelState 0x23170002#32 0xFFFFFFFF#32 0x1#32)).reg 3#4 = 0x1#32 := by decide
theorem test_sgeui : (after (kernelState 0x3317FFFF#32 0xFFFFFFFF#32 0x0#32)).reg 3#4 = 0x1#32 := by decide
theorem test_seq : (after (kernelState 0x23180002#32 0xFFFFFFFF#32 0x1#32)).reg 3#4 = 0x0#32 := by decide
theorem test_seqi : (after (kernelState 0x3318FFFF#32 0xFFFFFFFF#32 0x0#32)).reg 3#4 = 0x1#32 := by decide
theorem test_sequ : (after (kernelState 0x23190002#32 0xFFFFFFFF#32 0x1#32)).reg 3#4 = 0x0#32 := by decide
theorem test_sequi : (after (kernelState 0x3319FFFF#32 0xFFFFFFFF#32 0x0#32)).reg 3#4 = 0x0#32 := by decide
theorem test_sne : (after (kernelState 0x231A0002#32 0xFFFFFFFF#32 0x1#32)).reg 3#4 = 0x1#32 := by decide
theorem test_snei : (after (kernelState 0x331AFFFF#32 0xFFFFFFFF#32 0x0#32)).reg 3#4 = 0x0#32 := by decide
theorem test_sneu : (after (kernelState 0x231B0002#32 0xFFFFFFFF#32 0x1#32)).reg 3#4 = 0x1#32 := by decide
theorem test_sneui : (after (kernelState 0x331BFFFF#32 0xFFFFFFFF#32 0x0#32)).reg 3#4 = 0x1#32 := by decide
theorem test_lhi : (after (kernelState 0x330E1234#32 0x0#32 0x0#32)).reg 3#4 = 0x12340000#32 := by decide

/-! The operands on which an arithmetic instruction faults (R134, R148 to R155; vectors V-A, V-I). -/

theorem test_add_faults : (after (kernelState 0x03100002#32 0x7FFFFFFF#32 0x1#32)).status = 0x8000#16 := by decide
theorem test_addi_faults : (after (kernelState 0x1310FFFF#32 0x80000000#32 0x0#32)).status = 0x8000#16 := by decide
theorem test_sub_faults : (after (kernelState 0x03120002#32 0x0#32 0x80000000#32)).status = 0x8000#16 := by decide
theorem test_subi_faults : (after (kernelState 0x13120001#32 0x80000000#32 0x0#32)).status = 0x8000#16 := by decide
theorem test_mult_faults : (after (kernelState 0x03140002#32 0x10000#32 0x8000#32)).status = 0x8000#16 := by decide
theorem test_multi_faults : (after (kernelState 0x13148000#32 0xFFFF0000#32 0x0#32)).status = 0x8000#16 := by decide
theorem test_div_faults : (after (kernelState 0x03160002#32 0x80000000#32 0xFFFFFFFF#32)).status = 0x8000#16 := by decide
theorem test_divi_faults : (after (kernelState 0x13160000#32 0x9#32 0x0#32)).status = 0x8000#16 := by decide
theorem test_divu_faults : (after (kernelState 0x03170002#32 0x1#32 0x0#32)).status = 0x8000#16 := by decide
theorem test_divui_faults : (after (kernelState 0x13170000#32 0x1#32 0x0#32)).status = 0x8000#16 := by decide
theorem test_rem_faults : (after (kernelState 0x03180002#32 0x80000000#32 0xFFFFFFFF#32)).status = 0x8000#16 := by decide
theorem test_remi_faults : (after (kernelState 0x13180000#32 0x7#32 0x0#32)).status = 0x8000#16 := by decide
theorem test_remu_faults : (after (kernelState 0x03190002#32 0x1#32 0x0#32)).status = 0x8000#16 := by decide
theorem test_remui_faults : (after (kernelState 0x13190000#32 0x7#32 0x0#32)).status = 0x8000#16 := by decide

/-! ### Control transfer, memory and system instructions (the examples of R201 to R224; vectors V-J, V-L, V-S) -/

/-- The kernel state with the word at another address. -/
def kernelStateAt (pc : Addr) (w a b : Word) : State :=
  { ((State.reset.setReg 1#4 a).setReg 2#4 b).poke pc.toNat w with pc := pc }

theorem test_j : (after (kernelState 0x40080010#32 0#32 0#32)).pc = 0x80010#20 := by decide
theorem test_jr : (after ((kernelState 0x50500000#32 0#32 0#32).setReg 5#4 0xFFF00010#32)).pc = 0x00010#20 := by decide
theorem test_jal :
    (after (kernelStateAt 0x00020#20 0x60000100#32 0#32 0#32)).pc = 0x00100#20 ∧
    (after (kernelStateAt 0x00020#20 0x60000100#32 0#32 0#32)).reg 15#4 = 0x21#32 := by decide
theorem test_jalr_reads_before_it_links :
    (after ((kernelStateAt 0x00050#20 0x70F00000#32 0#32 0#32).setReg 15#4 0x200#32)).pc = 0x00200#20 ∧
    (after ((kernelStateAt 0x00050#20 0x70F00000#32 0#32 0#32).setReg 15#4 0x200#32)).reg 15#4 = 0x51#32 := by decide
theorem test_beqz :
    (after (kernelStateAt 0x00010#20 0xA0100003#32 0#32 0#32)).pc = 0x00014#20 ∧
    (after (kernelStateAt 0x00010#20 0xA0100003#32 7#32 0#32)).pc = 0x00011#20 := by decide
theorem test_beqz_costs_one_tick_more_when_taken :
    (after (kernelStateAt 0x00010#20 0xA0100002#32 0#32 0#32)).countdown = 1 ∧
    (after (kernelStateAt 0x00010#20 0xA0100002#32 0x80000000#32 0#32)).countdown = 0 := by decide
theorem test_bnez :
    (after (kernelStateAt 0x00012#20 0xB01FFFFE#32 1#32 0#32)).pc = 0x00011#20 ∧
    (after (kernelStateAt 0x00012#20 0xB01FFFFE#32 0#32 0#32)).pc = 0x00013#20 := by decide
theorem test_branch_wraps : (after (kernelStateAt 0x80000#20 0xA007FFFF#32 0#32 0#32)).pc = 0x00000#20 := by decide
theorem test_pc_wraps_at_the_top : (after { kernelState 0#32 0#32 0#32 with pc := 0xFFFFF#20, dbus := 0#32 }).pc = 0#20 := by
  decide

theorem test_sw : (after (kernelState 0x92000010#32 0#32 0xA#32)).mem.readWord 0x10 = 0xA#32 := by decide
theorem test_sw_to_rom :
    (after (kernelState 0x91080000#32 7#32 0#32)).mem.readWord 0x80000 = 0xFFFFFFFF#32 ∧
    (after (kernelState 0x91080000#32 7#32 0#32)).abus = 0x80000#32 ∧
    (after (kernelState 0x91080000#32 7#32 0#32)).isWrite = true := by decide
theorem test_lw : (after ((kernelState 0x83000010#32 0#32 0#32).poke 0x10 0xA#32)).reg 3#4 = 0xA#32 := by decide
theorem test_lw_of_rx :
    let s := (((kernelState 0x80070001#32 0#32 0#32).poke 0x70001 0x41#32).poke 0x70003 3#32)
    (after s).reg 0#4 = 0#32 ∧ (after s).serial1.status = 2#32 := by decide
theorem test_lw_unmapped : (after (kernelState 0x81030000#32 0#32 0#32)).reg 1#4 = 0x81030000#32 := by decide
theorem test_la : (after (kernelState 0xC70FFFFF#32 0#32 0#32)).reg 7#4 = 0x000FFFFF#32 := by decide
theorem test_write_to_x0 :
    (after (kernelState 0x00100002#32 5#32 7#32)).reg 0#4 = 0#32 ∧
    (after (kernelState 0x00100002#32 0x7FFFFFFF#32 1#32)).status = 0x8000#16 := by decide

theorem test_break : (after (kernelState 0x200C0000#32 0#32 0#32)).status = 0x4000#16 := by decide
theorem test_syscall : (after (kernelState 0x200D0000#32 0#32 0#32)).status = 0x2000#16 := by decide
theorem test_syscall_is_taken_at_the_next_boundary :
    let s := (kernelState 0x200D0000#32 0#32 0#32).setSreg evecSlot 0x40#32
    let b := atFetch (after s)
    b.sreg estatSlot = 0x2000#32 ∧ b.sreg earSlot = 0x101#32 ∧ b.sreg cctrlSlot = 0xC#32 ∧ b.pc = 0x40#20 ∧
    b.status = 0#16 := by decide
theorem test_rfe :
    let s := (((kernelState 0x200E0000#32 0#32 0#32).setSreg cctrlSlot 0x4D#32).setSreg earSlot 9#32).setSreg ersSlot 0x55#32
    (after s).sreg cctrlSlot = 0x4F#32 ∧ (after s).reg 13#4 = 0x55#32 ∧ (after s).pc = 9#20 := by decide
theorem test_movgs :
    (after (kernelState 0x341C0000#32 0x4A#32 0#32)).sreg cctrlSlot = 0x4A#32 ∧
    (after (kernelState 0x360C0000#32 0#32 0#32)).sreg icountSlot = 1#32 := by decide
theorem test_movsg :
    (after ((kernelState 0x325D0000#32 0#32 0#32).setSreg estatSlot 0x2000#32)).reg 2#4 = 0x2000#32 ∧
    (after (kernelState 0x327D0000#32 0#32 0#32)).reg 2#4 = defaultResetFill + 1#32 := by decide
theorem test_movgs_in_user_mode :
    (after (userState 0x381C0000#32 9#32 0#32)).status = 0x1000#16 ∧
    (after (userState 0x381C0000#32 9#32 0#32)).sreg evecSlot = defaultResetFill := by decide
theorem test_movsg_in_user_mode : (after (userState 0x314D0000#32 9#32 0#32)).reg 1#4 = 9#32 := by decide
theorem test_rfe_in_user_mode :
    (after (userState 0x200E0000#32 0#32 0#32)).status = 0#16 ∧
    (after (strict (userState 0x200E0000#32 0#32 0#32))).status = 0x1000#16 := by decide
theorem test_undefined_word :
    (after State.reset).status = 0x1000#16 ∧ (after State.reset).pc = 0x80001#20 ∧
    (after State.reset).sreg icountSlot = State.reset.sreg icountSlot := by decide

/-! ### Translation (V-M1 to V-M9), exceptions (V-X) -/

theorem test_translation :
    let u := userState 0#32 0#32 0#32
    physicalAddress 0x00010#20 u = 0x02010#20 ∧ accessPermitted 0x00010#20 u = true ∧
    accessPermitted 0x003FF#20 u = true ∧ accessPermitted 0x00400#20 u = false ∧ accessPermitted 0xFE000#20 u = false ∧
    physicalAddress 0x00010#20 (u.setSreg rbaseSlot 0xFFF02000#32) = 0x02010#20 ∧
    physicalAddress 0xFFFFF#20 State.reset = 0xFFFFF#20 := by decide

theorem test_cctrl_at_entry :
    entryCctrl 0x8#32 = 0xC#32 ∧ entryCctrl 0x2A#32 = 0x2D#32 ∧ entryCctrl 0x2#32 = 0x9#32 ∧
    entryCctrl 0xF#32 = 0xD#32 ∧ entryCctrl 0xABCD004A#32 = 0xABCD004D#32 ∧
    returnCctrl 0xC#32 = 0xC#32 ∧ returnCctrl 0x2D#32 = 0x2F#32 ∧ returnCctrl 0x9#32 = 0x3#32 ∧
    returnCctrl 0xABCD004D#32 = 0xABCD004F#32 := by decide

theorem test_admission :
    let pressed := fun c => pressButton (State.reset.setSreg cctrlSlot c)
    admittedCauses (pressed 0x2A#32) = 0x20#16 ∧ admittedCauses (pressed 0x28#32) = 0#16 ∧
    admittedCauses (pressed 0x4A#32) = 0#16 ∧ admittedCauses (State.reset.raise arithBit) = 0x8000#16 ∧
    admittedCauses ((pressed 0x2A#32).raise syscallBit) = 0x2020#16 := by decide

/-! ### Devices (sections 2.9 and 2.10 of the vectors) -/

theorem test_timer_auto_restart :
    let t0 : Timer := { control := 3#32, load := 2#32, count := 2#32, iack := 0#32, prescale := 0 }
    let t3 := t0.decrement.decrement.decrement
    let t6 := t3.decrement.decrement.decrement
    t0.decrement.count = 1#32 ∧ t3.count = 2#32 ∧ t3.iack = 1#32 ∧ t6.count = 2#32 ∧ t6.iack = 3#32 := by decide

theorem test_timer_one_shot :
    let t0 : Timer := { control := 1#32, load := 2#32, count := 2#32, iack := 0#32, prescale := 0 }
    let t3 := t0.decrement.decrement.decrement
    t3.count = 0#32 ∧ t3.iack = 1#32 ∧ t3.control = 0#32 ∧ t3.decrement = t3 := by decide

theorem test_symbol_ticks :
    symbolTicks 6250000 0xC7#32 = 1627 ∧ symbolTicks 6250000 0xC5#32 = 6510 ∧ symbolTicks 6250000 0xC0#32 = 208333 ∧
    symbolTicks 6250000 0xCF#32 = 1790 ∧ symbolTicks 6250000 0xD7#32 = 1790 ∧ symbolTicks 6250000 0x3F#32 = 1464 ∧
    symbolTicks 6250000 0x00#32 = 145833 := by decide

theorem test_transmission_starts :
    (after (kernelState 0x92070000#32 0#32 0x142#32)).serial1.tx = 0x142#32 ∧
    (after (kernelState 0x92070000#32 0#32 0x142#32)).serial1.status = 0#32 ∧
    (after (kernelState 0x92070000#32 0#32 0x142#32)).serial1.txCountdown = 1626 := by decide

theorem test_transmission_ends :
    let p : Serial := { resetSerial 0#8 with tx := 0x142#32, control := 0x2C7#32, status := 0#32, txCountdown := 1 }
    p.tick.2 = some 0x42#8 ∧ p.tick.1.status = 2#32 ∧ p.tick.1.iack = 2#32 := by decide

theorem test_reception :
    let r := trySend .one 0x41#8 State.reset
    r.1 = true ∧ r.2.serial1.rxCountdown = 1627 ∧ r.2.serial1.rxGuard = 100000 ∧ (trySend .one 0x42#8 r.2).1 = false := by
  decide

theorem test_display :
    displaySegments .left (after (kernelState 0x91073002#32 0xA#32 0#32)) = some 0x77#8 ∧
    (after (kernelState 0x91073002#32 0xA#32 0#32)).parallel.displayChanged = true := by decide

theorem test_displays_of_six_words :
    let s : State := { State.reset with cfg := { defaultConfig with parallelVariant := .sixWords } }
    displaySegments .left s = some 0x3F#8 ∧ displaySegments .upperLeft s = none ∧ ledsShown s = none ∧
    ledsShown State.reset = some 0#32 := by decide

theorem test_disassemble :
    let r := disassemble 0x100#20 { kernelState 0x03100002#32 0#32 0#32 with isWrite := true, dbus := 5#32 }
    r.1 = some (.ok (.add 3#4 1#4 2#4)) ∧ r.2.isWrite = false ∧ r.2.abus = 0x100#32 ∧ r.2.dbus = 5#32 := by decide

/-! ### The loader (V-B4 to V-B10) -/

theorem test_load_program :
    let r := loadSrec "S31500080000C1000005021000019200001083000010D4\nS70500080000F2\n".toList State.reset
    r.words = 4 ∧ r.error = none ∧ r.state.pc = 0x80000#20 ∧ r.state.mem.readWord 0x80000 = 0xC1000005#32 ∧
    r.state.mem.readWord 0x80003 = 0x83000010#32 := by decide

theorem test_load_bad_checksum :
    let r := loadSrec "S31500080000C1000005021000019200001083000010D5".toList State.reset
    r.words = 0 ∧ r.error = some .badChecksum ∧ r.state.mem = State.reset.mem := by decide

theorem test_load_ram : (loadSrec "S30900000010DEADBEEFAE".toList State.reset).state.mem.readWord 0x10 = 0xDEADBEEF#32 := by
  decide

theorem test_load_bad_payload :
    (loadSrec "S30800000010DEADBE9E".toList State.reset).error = some .badPayload ∧
    (loadSrec "S0030000FC".toList State.reset).error = none := by decide

/-! ### How a word is placed and fetched -/

theorem test_withFetchWord :
    (after (State.reset.withFetchWord 32 0xC1000005)).reg 1#4 = 5#32 ∧
    (after ((userState 0#32 0#32 0#32).withFetchWord 32 0xC1000005)).reg 1#4 = 5#32 := by decide

/-! ### Witnesses: for every statement with hypotheses, states and operands that meet them -/

theorem witness_IgnoredBitsAreNeverRead : 0x00000ABC#32 &&& ignoredBits 0x200D0000#32 = 0x00000ABC#32 := by decide

theorem witness_EncodeOfDecodeClearsIgnoredBits : decode 0x200D0ABC#32 = .ok .syscall := by decide

theorem witness_StepRunsDecodedInstruction_kernel :
    let s := kernelState 0x03100002#32 5#32 7#32
    let b := atFetch s
    s.countdown = 0 ∧ accessPermitted b.pc b = true ∧
    decode ((afterTableRead b.pc b).busWord (physicalAddress b.pc b).toNat) = .ok (.add 3#4 1#4 2#4) := by decide

theorem witness_StepRunsDecodedInstruction_user :
    let s := userState 0x03100002#32 5#32 7#32
    let b := atFetch s
    b.kernelMode = false ∧ s.countdown = 0 ∧ accessPermitted b.pc b = true ∧
    decode ((afterTableRead b.pc b).busWord (physicalAddress b.pc b).toNat) = .ok (.add 3#4 1#4 2#4) := by decide

theorem witness_CountingTickOnlyCounts : 0 < (after (kernelState 0x03160002#32 7#32 1#32)).countdown := by decide

theorem witness_UndefinedWordRaisesGpf :
    let b := atFetch State.reset
    State.reset.countdown = 0 ∧ accessPermitted b.pc b = true ∧
    decode ((afterTableRead b.pc b).busWord (physicalAddress b.pc b).toNat) = .error (.opcode 0xF#4) := by decide

theorem witness_RefusedFetchRaisesGpf :
    let s : State := { userState 0#32 0#32 0#32 with pc := 0x00400#20 }
    s.countdown = 0 ∧ accessPermitted (atFetch s).pc (atFetch s) = false := by decide

theorem witness_CcountAdvancesEveryTick_other :
    isNext (step State.reset) = true ∧ State.reset.issued = none := by decide

theorem witness_CcountAdvancesEveryTick_read :
    let s := kernelState 0x327D0000#32 0#32 0#32
    s.issued = some (.movsg 2#4 ccountSlot) ∧ (atFetch s).kernelMode = true := by decide

theorem witness_CcountAdvancesEveryTick_written :
    (kernelState 0x371C0000#32 9#32 0#32).issued = some (.movgs ccountSlot 1#4) ∧
    (atFetch (kernelState 0x371C0000#32 9#32 0#32)).kernelMode = true ∧
    (userState 0x371C0000#32 9#32 0#32).issued = some (.movgs ccountSlot 1#4) ∧
    (atFetch (userState 0x371C0000#32 9#32 0#32)).kernelMode = false := by decide

theorem witness_CcountAdvancesEveryTick_run :
    ∃ u, runTicks 1 State.reset = .next u ∧
      ∀ m, m < 1 → ∀ v, runTicks m State.reset = .next v → ∀ rs, v.issued ≠ some (.movgs ccountSlot rs) := by
  refine ⟨after State.reset, rfl, fun m hm v hv rs => ?_⟩
  have h : State.reset.issued = none := by decide
  interval_cases m
  cases hv
  rw [h]
  simp

theorem witness_IrqLinesFollowAckWords : 1 < 32 ∧ (pressButton State.reset).irq.getLsbD 1 = true ∧
    31 < 32 ∧ (pressButton State.reset).irq.getLsbD 31 = false := by decide

theorem witness_BoundaryTakesAdmittedCauses_none :
    let s := pressButton State.reset
    s.irq.getLsbD 1 = true ∧ (s.sreg cctrlSlot).getLsbD 1 = false ∧
    (∀ n : Fin 16, 12 ≤ n.val → s.status.getLsbD n.val = false) := by decide

theorem witness_BoundaryTakesAdmittedCauses_interrupt :
    let s := pressButton (State.reset.setSreg cctrlSlot 0x2A#32)
    s.irq.getLsbD (5 - 4) = true ∧ (s.sreg cctrlSlot).getLsbD 1 = true ∧ (s.sreg cctrlSlot).getLsbD 5 = true := by decide

theorem witness_BoundaryTakesAdmittedCauses_internal :
    (State.reset.raise gpfBit).status.getLsbD 12 = true ∧ (State.reset.raise arithBit).status.getLsbD 15 = true := by decide

theorem witness_RfeReturnsFromException :
    (strict State.reset).kernelMode = true ∧ (strict State.reset).cfg.rfePrivileged = true ∧
    (userState 0#32 0#32 0#32).kernelMode = false ∧ (userState 0#32 0#32 0#32).cfg.rfePrivileged = false := by decide

theorem witness_SpecialMovesInKernelMode : State.reset.kernelMode = true := by decide

theorem witness_PrivilegedInstructionsTrapInUserMode :
    (strict (userState 0#32 0#32 0#32)).kernelMode = false ∧ (strict (userState 0#32 0#32 0#32)).cfg.rfePrivileged = true := by
  decide

theorem witness_ModeChangesCompleteList_rfe :
    isNext (exec .rfe State.reset) = true ∧ abandoned .rfe State.reset = false ∧
    (afterExec .rfe State.reset).kernelMode = false := by decide

theorem witness_ModeChangesCompleteList_movgs :
    isNext (exec (.movgs cctrlSlot 0#4) State.reset) = true ∧
    (afterExec (.movgs cctrlSlot 0#4) State.reset).kernelMode = false := by decide

theorem witness_ModeChangesCompleteList_other :
    isNext (exec (.add 3#4 1#4 2#4) State.reset) = true ∧
    isNext (exec .rfe (strict (userState 0#32 0#32 0#32))) = true ∧
    abandoned .rfe (strict (userState 0#32 0#32 0#32)) = true := by decide

theorem witness_ModeChangesCompleteList_step :
    let s := userState 0x200D0000#32 0#32 0#32
    isNext (step (after s)) = true ∧ (after s).kernelMode = false ∧ (after (after s)).kernelMode = true := by decide

theorem witness_ModeChangesCompleteList_fetch :
    let u := userState 0#32 0#32 0#32
    let v : State := { u with pc := 0x00400#20 }
    State.reset.kernelMode = true ∧ u.kernelMode = false ∧
    (physRead (tableAddress (relocate u.pc u) u) u).1.getLsbD (tableBit (relocate u.pc u)) = true ∧ v.kernelMode = false ∧
    (physRead (tableAddress (relocate v.pc v) v) v).1.getLsbD (tableBit (relocate v.pc v)) = false := by decide

theorem witness_ModeChangesCompleteList_host (keep : Bool) : HostAction.press ≠ .reset keep := by cases keep <;> decide

theorem witness_UserModeKeepsSpecialRegisters :
    (userState 0#32 0#32 0#32).kernelMode = false ∧ isNext (exec (.movgs 8#4 1#4) (userState 0#32 0#32 0#32)) = true ∧
    (strict (userState 0#32 0#32 0#32)).cfg.rfePrivileged = true ∧
    isNext (exec .rfe (strict (userState 0#32 0#32 0#32))) = true := by decide

theorem witness_AbandonedOrCounted :
    isNext (exec (.divi 3#4 1#4 0#16) State.reset) = true ∧ abandoned (.divi 3#4 1#4 0#16) State.reset = true ∧
    isNext (exec (.divi 3#4 1#4 1#16) State.reset) = true ∧ abandoned (.divi 3#4 1#4 1#16) State.reset = false ∧
    isNext (exec (.movgs icountSlot 0#4) State.reset) = true ∧ abandoned (.movgs icountSlot 0#4) State.reset = false ∧
    abandoned (.lw 3#4 0#4 0x400#20) (userState 0#32 0#32 0#32) = true := by decide

theorem witness_AddressMapAnswers :
    let s := kernelState 7#32 0#32 0#32
    s.busWord 0x100 = 7#32 ∧ s.busWord 0x1FFFF = 0xFFFFFFFF#32 ∧ ({ s with dbus := 5#32 } : State).busWord 0x20000 = 5#32 ∧
    ({ s with dbus := 5#32 } : State).busWord 0x6FFFF = 5#32 ∧ s.busWord 0x70000 = 0#32 ∧ s.busWord 0x70003 = 2#32 ∧
    s.busWord 0x70004 = 0#32 ∧ ({ s with dbus := 5#32 } : State).busWord 0x70005 = 5#32 ∧ s.busWord 0x71002 = 0xC7#32 ∧
    s.busWord 0x72003 = 0#32 ∧ ({ s with dbus := 5#32 } : State).busWord 0x72004 = 5#32 ∧ s.busWord 0x73004 = 1#32 ∧
    s.busWord 0x7300A = 0#32 ∧ ({ s with dbus := 5#32 } : State).busWord 0x7300B = 5#32 ∧ s.busWord 0x7F000 = 0#32 ∧
    s.busWord 0x80000 = 0xFFFFFFFF#32 ∧ s.busWord 0xBFFFF = 0xFFFFFFFF#32 ∧
    ({ s with dbus := 5#32 } : State).busWord 0xC0000 = 5#32 ∧ 0xFFFFF < 2 ^ 20 := by decide

theorem witness_RamReadsBackWhatWasWritten :
    (0x1FFFF#20).toNat < 0x20000 ∧ (0x00000#20).toNat < 0x20000 ∧ (kernelState 7#32 0#32 0#32).mem.wf := by decide

theorem witness_RomIgnoresStores :
    let s := State.reset
    let u := userState 0#32 0#32 0#32
    let first := effectiveAddress 0#4 0x80000#20 s
    let last := effectiveAddress 0#4 0xBFFFF#20 s
    let user := effectiveAddress 0#4 0x7E000#20 u
    accessPermitted first s = true ∧ (physicalAddress first s).toNat = 0x80000 ∧ accessPermitted last s = true ∧
    (physicalAddress last s).toNat = 0xBFFFF ∧ 0xBFFFF < 0xC0000 ∧ u.kernelMode = false ∧ accessPermitted user u = true ∧
    (physicalAddress user u).toNat = 0x80000 ∧ s.mem.wf := by decide

theorem witness_UnmappedAddressesReadTheStaleBus :
    answering State.reset.cfg.parallelVariant (0x20000#20).toNat = none ∧
    answering State.reset.cfg.parallelVariant (0x7300B#20).toNat = none ∧
    answering State.reset.cfg.parallelVariant (0xFFFFF#20).toNat = none ∧
    ({ State.reset with pc := 0x20000#20 } : State).kernelMode = true := by decide

theorem witness_OnlyRxHasAReadSideEffect :
    State.reset.kernelMode = true ∧ (userState 0#32 0#32 0#32).kernelMode = false := by decide

theorem witness_TranslationFollowsTheTable :
    let u := userState 0#32 0#32 0#32
    let word := fun la : Addr =>
      u.busWord (BitVec.ofNat 20 ((u.sreg ptableSlot).toNat +
        (BitVec.ofNat 20 (la.toNat + (u.sreg rbaseSlot).toNat)).toNat / 32768)).toNat
    State.reset.kernelMode = true ∧ u.kernelMode = false ∧ (word 0x003FF#20).getLsbD (0x23FF / 1024 % 32) = true ∧
    (word 0x00400#20).getLsbD (0x2400 / 1024 % 32) = false := by decide

theorem witness_LoadWordReadsTheBus :
    accessPermitted (effectiveAddress 0#4 0x10#20 State.reset) State.reset = true ∧
    accessPermitted (effectiveAddress 0#4 0x3FF#20 (userState 0#32 0#32 0#32)) (userState 0#32 0#32 0#32) = true := by decide

theorem witness_StoreWordWritesOnlyItsWord :
    let u := userState 0#32 0#32 0#32
    accessPermitted (effectiveAddress 0#4 0x1FFFF#20 State.reset) State.reset = true ∧
    (0x1FFFF#20).toNat < 0x20000 ∧ State.reset.mem.wf ∧
    accessPermitted (effectiveAddress 0#4 0x3FF#20 u) u = true ∧ u.mem.wf ∧
    accessPermitted (effectiveAddress 0#4 0x20000#20 State.reset) State.reset = true ∧
    answering State.reset.cfg.parallelVariant 0x20000 = none ∧
    answering State.reset.cfg.parallelVariant 0x72000 = some (.timer, 0) := by decide

theorem witness_RefusedLoadsAndStoresRaiseGpf :
    accessPermitted (effectiveAddress 0#4 0x400#20 (userState 0#32 0#32 0#32)) (userState 0#32 0#32 0#32) = false := by decide

theorem witness_SignedAddAndSubtract :
    ((0x7FFFFFFF#32).toInt + (0#32).toInt ≤ 2 ^ 31 - 1) ∧ (2 ^ 31 - 1 < (0x7FFFFFFF#32).toInt + (1#32).toInt) ∧
    ((0x80000000#32).toInt - (1#16).toInt < -2 ^ 31) ∧ (-2 ^ 31 ≤ (0x80000000#32).toInt - (0#16).toInt) := by decide

theorem witness_SignedMultiply :
    (2 ^ 31 - 1 < (0x10000#32).toInt * (0x8000#32).toInt) ∧ (-2 ^ 31 ≤ (0x10000#32).toInt * (0x8000#16).toInt) := by decide

theorem witness_SignedDivideAndRemainder :
    (0#32).toInt = 0 ∧ ((0x80000000#32).toInt = -2 ^ 31 ∧ (0xFFFF#16).toInt = -1) ∧ (0xFFFFFFFE#32).toInt ≠ -1 ∧
    (0x80000001#32).toInt ≠ -2 ^ 31 := by decide

theorem witness_UnsignedDivideAndRemainder : (0#32).toNat = 0 ∧ (1#32).toNat ≠ 0 ∧ (0#16).toNat = 0 ∧ (1#16).toNat ≠ 0 := by
  decide

theorem witness_OrderComparisons :
    (0x80000000#32).toInt < (0x7FFFFFFF#32).toInt ∧ ¬ (0x2A#32).toInt < (0x2A#32).toInt ∧
    (0x7FFFFFFF#32).toNat < (0x80000000#32).toNat ∧ ¬ (0x2A#32).toNat < (0x2A#32).toNat := by decide

theorem witness_EqualityComparisons :
    (0xFFFFFFFF#32).toInt = (0xFFFF#16).toInt ∧ (0xFFFFFFFF#32).toNat ≠ (0xFFFF#16).toNat ∧
    (0x0000FFFF#32).toNat = (0xFFFF#16).toNat := by decide

theorem witness_TimerExpiresAfterCountPlusOneSteps :
    let t : Timer := { control := 3#32, load := 2#32, count := 2#32, iack := 0#32, prescale := 3 }
    t.prescale < 4 ∧ t.control.getLsbD 0 = true ∧ 1 ≤ 2 ∧ 2 ≤ t.count.toNat := by decide

theorem witness_SerialTransfersStart :
    (let p := State.reset.serial .one
     p.rxCountdown = 0 ∧ p.rxGuard = 0 ∧ p.status.getLsbD 0 = false) ∧
    (let q := (trySend .one 0x41#8 State.reset).2.serial .one
     ¬ (q.rxCountdown = 0 ∧ q.rxGuard = 0 ∧ q.status.getLsbD 0 = false)) := by decide

theorem witness_ParallelStores :
    10 < State.reset.cfg.parallelVariant.length ∧ 5 < ParallelVariant.sixWords.length ∧
    ¬ 6 < ParallelVariant.sixWords.length := by decide

theorem witness_TypeSevenRecordSetsPc :
    parseRecord "S70500080000F2".toList = .ok { type := '7', address := 0x80000, payload := [] } := by decide

theorem witness_TypeThreeRecordWritesItsWords :
    let r : Record := { type := '3', address := 0x1FFFF, payload := [0xDE#8, 0xAD#8, 0xBE#8, 0xEF#8] }
    let q : Record := { r with address := 0xBFFFF }
    payloadWords r.payload = some [0xDEADBEEF#32] ∧ State.reset.mem.wf ∧ r.address + 1 ≤ 0x20000 ∧
    0x80000 ≤ q.address ∧ q.address + 1 ≤ 0xC0000 := by decide

theorem witness_LoadStopsAtTheFirstBadRecord :
    (parseRecord "S0030000FC".toList).isOk = true ∧
    parseRecord "S31500080000C1000005021000019200001083000010D5".toList = .error .badChecksum := by decide

theorem witness_Invariant :
    (kernelState 7#32 1#32 2#32).Inv ∧ isNext (step (kernelState 7#32 1#32 2#32)) = true :=
  ⟨⟨by decide, by decide, by decide, by decide, by decide, by decide⟩, by decide⟩

theorem witness_UserModeNeverStoresToAForbiddenPage :
    let s := userState 0x92000010#32 0#32 7#32
    s.countdown = 0 ∧ (atFetch s).kernelMode = false ∧ isNext (step s) = true ∧ s.issued = some (.sw 2#4 0#4 0x10#20) ∧
    tableInMemory 0x02400#20 (atFetch s) = true ∧ pagePermitted 0x02400#20 (atFetch s) = false := by decide

end Sys2Proof.Tests
end

section
/-! SUPPORT. The cycle counter (R29): what a tick brings to the instruction it issues, and what becomes of `ccount` in a tick
and in a run of ticks. -/

namespace Sys2Proof.Machine

/-- The boundary of a tick has already counted the tick in `ccount`, whether or not it takes an exception (R29, R241). -/
theorem atFetch_ccount (s : State) : (atFetch s).sreg ccountSlot = s.sreg ccountSlot + 1#32 := by
  unfold atFetch
  rw [boundaryCheck_sreg _ _ (by decide) (by decide) (by decide) (by decide), beginTick_sreg, if_pos rfl]

/-- The start of a tick leaves the general registers alone. -/
theorem atFetch_reg (s : State) (r : Reg) : (atFetch s).reg r = s.reg r :=
  State.reg_congr (boundaryCheck_frame (beginTick s)).1 r

/-- The instruction a step issues executes in a state with the registers the tick began with and the special registers of its
boundary, and the end of the tick follows (R320, R315). -/
theorem step_of_issued {s t : State} {i : Instr} (h : step s = .next t) (hi : s.issued = some i) :
    ∃ b u, SameRegs s b ∧ SameSpecials (atFetch s) b ∧ exec i b = .next u ∧ t = finishTick true u := by
  rcases step_cases s t h with ⟨_, hn, _⟩ | ⟨_, hn, _⟩ | ⟨_, _, hn, _⟩ | ⟨j, f, u, _, hj, hf, hu, ht⟩
  · simp [hn] at hi
  · simp [hn] at hi
  · simp [hn] at hi
  · obtain rfl : j = i := Option.some.inj (hj.symm.trans hi)
    obtain ⟨hgpr, hspr, _⟩ := fetch_frame _ _ hf
    exact ⟨issueState j f, u, fun r => (State.reg_congr hgpr r).trans (atFetch_reg s r),
      fun k => State.sreg_congr hspr k, hu, ht⟩

/-- A tick that issues no instruction leaves the special registers as its start or its boundary left them, so `ccount` has
counted it and nothing more (R29, R320, R321, R225). -/
theorem step_ccount_of_noneIssued {s t : State} (h : step s = .next t) (hi : s.issued = none) :
    t.sreg ccountSlot = s.sreg ccountSlot + 1#32 := by
  rcases step_cases s t h with ⟨_, _, rfl⟩ | ⟨_, _, _, rfl⟩ | ⟨f, _, _, hf, rfl⟩ | ⟨i, _, _, _, hn, _⟩
  · rw [finishTick_sreg, countDown_sreg, beginTick_sreg, if_pos rfl]
  · rw [finishTick_sreg, State.sreg_raise, State.sreg_congr (afterTableRead_frame _ _).2.1, atFetch_ccount]
  · have hspr : (issueUndefined f).spr = (atFetch s).spr := (fetch_frame _ _ hf).2.1
    rw [finishTick_sreg, State.sreg_congr hspr, atFetch_ccount]
  · simp [hn] at hi

/-- A tick that issues no `movgs` to `ccount` advances it by one (R29). -/
theorem step_ccount_of_unwritten {s t : State} (h : step s = .next t)
    (hw : ∀ rs, s.issued ≠ some (.movgs ccountSlot rs)) : t.sreg ccountSlot = s.sreg ccountSlot + 1#32 := by
  cases hi : s.issued with
  | none => exact step_ccount_of_noneIssued h hi
  | some i =>
    obtain ⟨b, u, _, hspecials, hu, rfl⟩ := step_of_issued h hi
    have hne : ∀ rs, i ≠ .movgs ccountSlot rs := fun rs e => hw rs (by rw [hi, e])
    rw [finishTick_sreg, exec_sreg i b u hu ccountSlot (by decide) hne (.inr (by decide)), hspecials, atFetch_ccount]

/-- `movgs` in kernel mode writes its special register and completes (R223). -/
theorem exec_movgs_kernel (k : SReg) (rs : Reg) {s : State} (hk : s.kernelMode = true) :
    exec (.movgs k rs) s = .next (s.setSreg k (s.reg rs)).complete := by
  simp [exec, execMovgs, privileged, hk]

/-- `movgs` in user mode only raises GPF (R223, R231). -/
theorem exec_movgs_user (k : SReg) (rs : Reg) {s : State} (hk : s.kernelMode = false) :
    exec (.movgs k rs) s = .next (s.raise gpfBit) := by
  simp [exec, execMovgs, privileged, hk]

/-- `movsg` in kernel mode writes its general register and completes (R224). -/
theorem exec_movsg_kernel (rd : Reg) (k : SReg) {s : State} (hk : s.kernelMode = true) :
    exec (.movsg rd k) s = .next (s.setReg rd (s.sreg k)).complete := by
  simp [exec, execMovsg, privileged, hk]

/-- A `movsg` of `ccount` reads the count with its own tick in it (R29, R224). -/
theorem step_reg_of_movsg_ccount {s t : State} {rd : Reg} (h : step s = .next t)
    (hi : s.issued = some (.movsg rd ccountSlot)) (hk : (atFetch s).kernelMode = true) (hrd : rd ≠ 0#4) :
    t.reg rd = s.sreg ccountSlot + 1#32 := by
  obtain ⟨b, u, _, hspecials, hu, rfl⟩ := step_of_issued h hi
  rw [exec_movsg_kernel rd ccountSlot ((kernelMode_congr (hspecials cctrlSlot)).trans hk)] at hu
  cases hu
  rw [finishTick_reg, State.reg_complete, State.reg_setReg, if_pos ⟨rfl, hrd⟩, hspecials, atFetch_ccount]

/-- A `movgs` to `ccount` in kernel mode leaves the value written: the tick was counted before it (R29, R223). -/
theorem step_ccount_of_movgs_kernel {s t : State} {rs : Reg} (h : step s = .next t)
    (hi : s.issued = some (.movgs ccountSlot rs)) (hk : (atFetch s).kernelMode = true) :
    t.sreg ccountSlot = s.reg rs := by
  obtain ⟨b, u, hregs, hspecials, hu, rfl⟩ := step_of_issued h hi
  rw [exec_movgs_kernel ccountSlot rs ((kernelMode_congr (hspecials cctrlSlot)).trans hk)] at hu
  cases hu
  rw [finishTick_sreg, State.sreg_complete, if_neg (by decide), State.sreg_setSreg, if_pos rfl, hregs]

/-- A `movgs` to `ccount` that user mode may not run counts its tick and nothing more (R29, R231). -/
theorem step_ccount_of_movgs_user {s t : State} {rs : Reg} (h : step s = .next t)
    (hi : s.issued = some (.movgs ccountSlot rs)) (hk : (atFetch s).kernelMode = false) :
    t.sreg ccountSlot = s.sreg ccountSlot + 1#32 := by
  obtain ⟨b, u, _, hspecials, hu, rfl⟩ := step_of_issued h hi
  rw [exec_movgs_user ccountSlot rs ((kernelMode_congr (hspecials cctrlSlot)).trans hk)] at hu
  cases hu
  rw [finishTick_sreg, State.sreg_raise, hspecials, atFetch_ccount]

/-- A run of ticks after a first one that ended in a next state. -/
theorem runTicks_succ_of_step {s t : State} (h : step s = .next t) (n : Nat) : runTicks (n + 1) s = runTicks n t := by
  simp only [runTicks, h]

/-- A run of ticks that ends in a next state has a first tick that does. -/
theorem exists_step_of_runTicks_succ {n : Nat} {s u : State} (h : runTicks (n + 1) s = .next u) :
    ∃ t, step s = .next t ∧ runTicks n t = .next u := by
  cases hs : step s with
  | next t => exact ⟨t, rfl, runTicks_succ_of_step hs n ▸ h⟩
  | fault f => nomatch f
  | refused r => simp [runTicks, hs] at h

/-- Over `n` ticks that issue no `movgs` to `ccount` it advances by `n` modulo 2^32 (R29). -/
theorem runTicks_ccount (n : Nat) (s u : State) (h : runTicks n s = .next u)
    (hw : ∀ m, m < n → ∀ v, runTicks m s = .next v → ∀ rs, v.issued ≠ some (.movgs ccountSlot rs)) :
    u.sreg ccountSlot = s.sreg ccountSlot + BitVec.ofNat 32 n := by
  induction n generalizing s with
  | zero =>
    cases h
    simp
  | succ n ih =>
    obtain ⟨t, ht, hrun⟩ := exists_step_of_runTicks_succ h
    have hfirst := step_ccount_of_unwritten ht (hw 0 n.succ_pos s rfl)
    have hrest := ih t hrun fun m hm v hv => hw (m + 1) (Nat.succ_lt_succ hm) v (by rw [runTicks_succ_of_step ht, hv])
    rw [hrest, hfirst, BitVec.add_assoc, BitVec.add_comm 1#32, ← BitVec.ofNat_add]

/-- Settles O11: one clause for each way a tick can treat `ccount`, and the run by induction on the number of ticks. -/
theorem ccountAdvancesEveryTick : Obligations.CcountAdvancesEveryTick :=
  ⟨fun _ _ h => ⟨step_ccount_of_unwritten h, fun _ => step_reg_of_movsg_ccount h, fun _ => step_ccount_of_movgs_kernel h,
    fun _ => step_ccount_of_movgs_user h⟩, runTicks_ccount⟩

end Sys2Proof.Machine
end

section
/-! SUPPORT. RAM and ROM on the bus (R65, R68, R69): a transaction with either as one equation, and what a store by `sw`
leaves alone wherever it goes. -/

namespace Sys2Proof.Machine

/-- A read transaction with RAM or ROM returns the word there and changes only the bus latches (R68, R69, R70). -/
theorem physRead_memory {pa : Addr} (s : State)
    (h : pa.toNat < ramLength ∨ romBase ≤ pa.toNat ∧ pa.toNat < romBase + romLength) :
    physRead pa s = (s.mem.readWord pa.toNat,
      { s with isWrite := false, abus := zext20 pa, dbus := s.mem.readWord pa.toNat }) := by
  unfold physRead
  rcases h with hram | ⟨hbase, hend⟩
  · rw [answering_ram _ _ hram]
    rfl
  · have hword : s.deviceWord .rom (pa.toNat - romBase) = s.mem.readWord pa.toNat :=
      congrArg s.mem.readWord (Nat.add_sub_cancel' hbase)
    rw [answering_rom _ _ hbase hend]
    simp only [hword]
    rfl

/-- What a read of RAM or ROM leaves alone: all but the bus latches, the devices too (R68, R69). -/
theorem physRead_memory_frame {pa : Addr} (s : State)
    (h : pa.toNat < ramLength ∨ romBase ≤ pa.toNat ∧ pa.toNat < romBase + romLength) :
    SameMemory s (physRead pa s).2 ∧ SameDevices s (physRead pa s).2 ∧ SameRegs s (physRead pa s).2 ∧
    SameSpecials s (physRead pa s).2 ∧ SameSequencer s (physRead pa s).2 ∧ (physRead pa s).2.pc = s.pc ∧
    (physRead pa s).2.status = s.status := by
  rw [physRead_memory s h]
  exact ⟨fun _ => rfl, ⟨rfl, rfl, rfl, rfl, rfl⟩, fun _ => rfl, fun _ => rfl, ⟨rfl, rfl, rfl, rfl, rfl, rfl⟩, rfl, rfl⟩

/-- A write transaction with RAM replaces the word there and, besides, changes only the bus latches (R68, R71). -/
theorem physWrite_ram {pa : Addr} (v : Word) (s : State) (h : pa.toNat < ramLength) :
    physWrite pa v s =
      { s with isWrite := true, abus := zext20 pa, dbus := v, mem := s.mem.writeWord pa.toNat v } := by
  unfold physWrite
  rw [answering_ram _ _ h]
  rfl

/-- What a write of RAM leaves alone: all but memory and the bus latches (R68). -/
theorem physWrite_ram_frame {pa : Addr} (v : Word) (s : State) (h : pa.toNat < ramLength) :
    SameDevices s (physWrite pa v s) ∧ SameRegs s (physWrite pa v s) ∧ SameSpecials s (physWrite pa v s) ∧
    SameSequencer s (physWrite pa v s) ∧ (physWrite pa v s).pc = s.pc ∧ (physWrite pa v s).status = s.status := by
  rw [physWrite_ram v s h]
  exact ⟨⟨rfl, rfl, rfl, rfl, rfl⟩, fun _ => rfl, fun _ => rfl, ⟨rfl, rfl, rfl, rfl, rfl, rfl⟩, rfl, rfl⟩

/-- A write transaction with ROM changes only the bus latches (R69, R71). -/
theorem physWrite_rom {pa : Addr} (v : Word) (s : State) (hbase : romBase ≤ pa.toNat)
    (hend : pa.toNat < romBase + romLength) : physWrite pa v s = s.driveWrite pa v := by
  unfold physWrite
  rw [answering_rom _ _ hbase hend]
  rfl

/-- Clearing RAM leaves every word of ROM as it is (R300). -/
theorem Memory.readWord_clearRam_rom (m : Memory) {a : Nat} (h : romBase ≤ a) : m.clearRam.readWord a = m.readWord a := by
  have hkey : ∀ k, romFirstCell ≤ byteKey a k := fun k => (Nat.mul_le_mul_left 4 h).trans (Nat.le_add_right _ k)
  simp only [Memory.readWord, Memory.readByte_clearRam_rom _ _ (hkey _)]

/-- A board reset leaves every word of ROM as it is, whether or not it keeps RAM (R69, R300, R301). -/
theorem boardReset_readWord_rom (keep : Bool) (s : State) {a : Nat} (h : romBase ≤ a) :
    (boardReset keep s).mem.readWord a = s.mem.readWord a := by
  cases keep with
  | true => rfl
  | false => exact Memory.readWord_clearRam_rom s.mem h

/-- `sw` where the access is permitted (R212). -/
theorem exec_sw_permitted {rd rs : Reg} {offset : BitVec 20} {s : State}
    (h : accessPermitted (effectiveAddress rs offset s) s = true) :
    exec (.sw rd rs offset) s = .next
      (physWrite (physicalAddress (effectiveAddress rs offset s) s) (s.reg rd)
        (afterTableRead (effectiveAddress rs offset s) s)).complete := by
  rcases exec_sw rd rs offset s with ⟨_, he⟩ | ⟨hdenied, _⟩
  · exact he
  · simp [h] at hdenied

/-- A store that completes changes no general register, counts in `icount`, raises nothing and leaves `pc`, whatever device
it reaches (R212, R323). -/
theorem complete_physWrite_afterTableRead_frame (la pa : Addr) (v : Word) (s : State) :
    SameRegs s (physWrite pa v (afterTableRead la s)).complete ∧
    Counted s (physWrite pa v (afterTableRead la s)).complete ∧
    (physWrite pa v (afterTableRead la s)).complete.status = s.status ∧
    (physWrite pa v (afterTableRead la s)).complete.pc = s.pc := by
  obtain ⟨hgpr, hspr, hpc, hstatus, _⟩ := afterTableRead_frame la s
  obtain ⟨kgpr, kspr, kpc, kstatus, _⟩ := physWrite_frame pa v (afterTableRead la s)
  have hsreg := State.sreg_congr (kspr.trans hspr)
  refine ⟨fun r => State.reg_congr (kgpr.trans hgpr) r, fun k => ?_, kstatus.trans hstatus, kpc.trans hpc⟩
  rw [State.sreg_complete, hsreg, hsreg]

/-- A completed store to ROM leaves every byte of memory and every device as the protection table read left them (R69). -/
theorem complete_physWrite_rom_frame {pa : Addr} (la : Addr) (v : Word) (s : State) (hbase : romBase ≤ pa.toNat)
    (hend : pa.toNat < romBase + romLength) :
    SameMemory s (physWrite pa v (afterTableRead la s)).complete ∧
    SameDevices (afterTableRead la s) (physWrite pa v (afterTableRead la s)).complete := by
  obtain ⟨_, _, _, _, _, _, _, hmem, _⟩ := afterTableRead_frame la s
  rw [physWrite_rom v _ hbase hend]
  exact ⟨fun key => congrArg (Memory.readByte · key) hmem, rfl, rfl, rfl, rfl, rfl⟩

/-- Settles O25: the frames come from the equation of each transaction with RAM, the words read from what memory returns
after a word is written. -/
theorem ramReadsBackWhatWasWritten : Obligations.RamReadsBackWhatWasWritten := by
  intro s pa v hram hwf r t
  have hsame : t.mem.readWord pa.toNat = v := by
    simp only [t, physWrite_ram v s hram, Memory.readWord_writeWord_same s.mem pa.toNat v hwf]
  have hother : ∀ a, a ≠ pa.toNat → t.mem.readWord a = s.mem.readWord a := fun a ha => by
    simp only [t, physWrite_ram v s hram, Memory.readWord_writeWord_other s.mem pa.toNat a v ha]
  have hback : (physRead pa t).1 = v := by rw [physRead_memory t (.inl hram), hsame]
  have hrval : r.1 = s.mem.readWord pa.toNat := congrArg Prod.fst (physRead_memory s (.inl hram))
  obtain ⟨hrmem, hrdev, hrregs, hrspecials, hrseq, hrpc, hrstatus⟩ := physRead_memory_frame s (.inl hram)
  obtain ⟨htdev, htregs, htspecials, htseq, htpc, htstatus⟩ := physWrite_ram_frame v s hram
  exact ⟨hrval, hrmem, hrdev, hrregs, hrspecials, hrseq, hrpc, hrstatus, hsame, hother, htdev, htregs, htspecials, htseq,
    htpc, htstatus, hback⟩

/-- Settles O26, a clause of R69 each: the read, the store, the loader, the reset. -/
theorem romIgnoresStores : Obligations.RomIgnoresStores := by
  intro s a hbase hend
  refine ⟨?_, ?_, ?_, fun keep => boardReset_readWord_rom keep s hbase⟩
  · rintro pa rfl
    rw [physRead_memory s (.inr ⟨hbase, hend⟩)]
  · rintro rd rs offset ea hpermitted rfl
    obtain ⟨hmem, hdevices⟩ := complete_physWrite_rom_frame ea (s.reg rd) s hbase hend
    exact ⟨_, exec_sw_permitted hpermitted, hmem, hdevices, complete_physWrite_afterTableRead_frame ea _ (s.reg rd) s⟩
  · intro v hwf
    rw [loaderWrite_memory a v s (.inr ⟨hbase, hend⟩)]
    exact Memory.readWord_writeWord_same s.mem a v hwf

end Sys2Proof.Machine
end

section
/-! SUPPORT. The encoding (R101 to R116): the decoder reads an instruction's fields and nothing else, and the encoder writes
them back with every other bit 0. -/

namespace Sys2Proof

/-- A word of the register layout decodes by the register form of the map (R108, R109). -/
theorem decode_encodeR {op : BitVec 4} (h : op = 0x0#4 ∨ op = 0x2#4) (fn rd rs rt : BitVec 4) :
    decode (encodeR op fn rd rs rt) = selectRegisterForm (encodeR op fn rd rs rt) := by
  unfold decode
  rw [opField_encodeR]
  rcases h with rfl | rfl <;> rfl

/-- A word of the immediate layout decodes by the immediate form of the map (R108, R109). -/
theorem decode_encodeI {op : BitVec 4} (h : op = 0x1#4 ∨ op = 0x3#4) (fn rd rs : BitVec 4) (imm : BitVec 16) :
    decode (encodeI op fn rd rs imm) = selectImmediateForm (encodeI op fn rd rs imm) := by
  unfold decode
  rw [opField_encodeI]
  rcases h with rfl | rfl <;> rfl

/-- Settles O1, by the layout of the instruction: its fields read back, and they select it again. -/
theorem decodeOfEncodeIsIdentity : Obligations.DecodeOfEncodeIsIdentity := by
  intro i
  cases i
  case add | addu | sub | subu | mult | multu | div | divu | rem | remu | sll | and | srl | or | sra | xor | slt | sltu |
      sgt | sgtu | sle | sleu | sge | sgeu | seq | sequ | sne | sneu | brk | syscall | rfe =>
    refine (decode_encodeR (by decide) _ _ _ _).trans ?_
    unfold selectRegisterForm
    rw [funcField_encodeR, rdField_encodeR, rsField_encodeR, rtField_encodeR]
    rfl
  case j | jr | jal | jalr | lw | sw | beqz | bnez | la =>
    unfold encode decode
    simp only [opField_encodeJ, rdField_encodeJ, rsField_encodeJ, imm20Field_encodeJ]
  all_goals
    refine (decode_encodeI (by decide) _ _ _ _).trans ?_
    unfold selectImmediateForm
    rw [funcField_encodeI, rdField_encodeI, rsField_encodeI, imm16Field_encodeI]
    rfl

/-! ### Ignored bits -/

/-- A field that meets no ignored bit reads the same whatever stands in the ignored bits. -/
theorem extractLsb'_xor_of_masked {w m mask : Word} {start len : Nat} (hm : m &&& mask = m)
    (hfield : mask.extractLsb' start len = 0#len) : (w ^^^ m).extractLsb' start len = w.extractLsb' start len := by
  have hzero : m.extractLsb' start len = 0#len := by
    rw [← hm, BitVec.extractLsb'_and, hfield, BitVec.and_zero]
  rw [BitVec.extractLsb'_xor, hzero, BitVec.xor_zero]

/-- The function code is read off the opcode and function fields (R105). -/
theorem funcField_eq (w : Word) : funcField w = (opField w).extractLsb' 1 1 ++ fn4Field w := by
  unfold funcField opField
  congr 1
  apply word_ext
  intro i hi
  simp only [BitVec.getLsbD_extractLsb']
  interval_cases i
  simp

/-- The ignored bits of a word by the value of its opcode and function fields (R113). -/
theorem ignoredBits_eq (w : Word) : ignoredBits w = ignoredBits (opField w ++ 0#8 ++ fn4Field w ++ 0#16) :=
  ignoredBits_of_fields w _ _ rfl rfl

/-- No opcode bit is ever ignored (R113). -/
theorem ignoredBits_opField (w : Word) : (ignoredBits w).extractLsb' 28 4 = 0#4 := by
  rw [ignoredBits_eq]
  generalize opField w = op, fn4Field w = fn
  revert op fn
  decide

/-- Words that agree in every field of the register layout select the same instruction. -/
theorem selectRegisterForm_congr {v w : Word} (hop : opField v = opField w) (hfn : fn4Field v = fn4Field w)
    (hrd : rdField v = rdField w) (hrs : rsField v = rsField w) (hrt : rtField v = rtField w) :
    selectRegisterForm v = selectRegisterForm w := by
  unfold selectRegisterForm
  rw [funcField_eq v, hop, hfn, hrd, hrs, hrt, ← funcField_eq]

/-- `break`, `syscall` and `rfe` have no operands, so the opcode and function fields decide them (R109). -/
theorem selectRegisterForm_congr_bare {v w : Word} (hop : opField v = opField w) (hfn : fn4Field v = fn4Field w)
    (h2 : opField w = 0x2#4) (hbare : fn4Field w = 0xC#4 ∨ fn4Field w = 0xD#4 ∨ fn4Field w = 0xE#4) :
    selectRegisterForm v = selectRegisterForm w := by
  unfold selectRegisterForm
  rw [funcField_eq v, hop, hfn, funcField_eq w, h2]
  rcases hbare with h | h | h <;> rw [h] <;> rfl

/-- Words that agree in every field of the immediate layout select the same instruction. -/
theorem selectImmediateForm_congr {v w : Word} (hop : opField v = opField w) (hfn : fn4Field v = fn4Field w)
    (hrd : rdField v = rdField w) (hrs : rsField v = rsField w) (himm : imm16Field v = imm16Field w) :
    selectImmediateForm v = selectImmediateForm w := by
  unfold selectImmediateForm
  rw [funcField_eq v, hop, hfn, hrd, hrs, himm, ← funcField_eq]

/-- `movgs` and `movsg` have no immediate (R109). -/
theorem selectImmediateForm_congr_move {v w : Word} (hop : opField v = opField w) (hfn : fn4Field v = fn4Field w)
    (hrd : rdField v = rdField w) (hrs : rsField v = rsField w) (h3 : opField w = 0x3#4)
    (hmove : fn4Field w = 0xC#4 ∨ fn4Field w = 0xD#4) : selectImmediateForm v = selectImmediateForm w := by
  unfold selectImmediateForm
  rw [funcField_eq v, hop, hfn, funcField_eq w, h3, hrd, hrs]
  rcases hmove with h | h <;> rw [h] <;> rfl

/-- `lhi` has no source register (R109). -/
theorem selectImmediateForm_congr_high {v w : Word} (hop : opField v = opField w) (hfn : fn4Field v = fn4Field w)
    (hrd : rdField v = rdField w) (himm : imm16Field v = imm16Field w) (h3 : opField w = 0x3#4)
    (hhigh : fn4Field w = 0xE#4) : selectImmediateForm v = selectImmediateForm w := by
  unfold selectImmediateForm
  rw [funcField_eq v, hop, hfn, funcField_eq w, h3, hrd, himm, hhigh]
  rfl

/-- The ignored bits of a word whose opcode decides them alone (R113). -/
theorem ignoredBits_of_opcode {w mask : Word} {op : BitVec 4} (hop : opField w = op)
    (hmask : ∀ fn : BitVec 4, ignoredBits (op ++ 0#8 ++ fn ++ 0#16) = mask) : ignoredBits w = mask := by
  rw [ignoredBits_eq, hop, hmask]

/-- Settles O3, by opcode: the fields the decoder reads for it lie outside its ignored bits. -/
theorem ignoredBitsAreNeverRead : Obligations.IgnoredBitsAreNeverRead := by
  intro w m hm
  have field : ∀ {start len mask}, ignoredBits w = mask → mask.extractLsb' start len = 0#len →
      (w ^^^ m).extractLsb' start len = w.extractLsb' start len :=
    fun hmask h => extractLsb'_xor_of_masked hm (hmask ▸ h)
  have same : ignoredBits w = 0#32 → w ^^^ m = w := fun hmask => by
    rw [← hm, hmask, BitVec.and_zero, BitVec.xor_zero]
  have hop : opField (w ^^^ m) = opField w := field rfl (ignoredBits_opField w)
  unfold decode
  rw [hop]
  split
  next h =>
    have mask : ignoredBits w = 0x0000FFF0#32 := ignoredBits_of_opcode h (by decide)
    exact selectRegisterForm_congr hop (field mask rfl) (field mask rfl) (field mask rfl) (field mask rfl)
  next h => rw [same (ignoredBits_of_opcode h (by decide))]
  next h =>
    by_cases hbare : fn4Field w = 0xC#4 ∨ fn4Field w = 0xD#4 ∨ fn4Field w = 0xE#4
    · have mask : ignoredBits w = 0x0FF0FFFF#32 := by
        rcases hbare with hfn | hfn | hfn <;> exact ignoredBits_of_fields w _ _ h hfn
      exact selectRegisterForm_congr_bare hop (field mask rfl) h hbare
    · have mask : ignoredBits w = 0x0000FFF0#32 := by
        rw [ignoredBits_eq, h]
        generalize fn4Field w = fn at hbare
        revert fn
        decide
      exact selectRegisterForm_congr hop (field mask rfl) (field mask rfl) (field mask rfl) (field mask rfl)
  next h =>
    by_cases hmove : fn4Field w = 0xC#4 ∨ fn4Field w = 0xD#4
    · have mask : ignoredBits w = 0x0000FFFF#32 := by
        rcases hmove with hfn | hfn <;> exact ignoredBits_of_fields w _ _ h hfn
      exact selectImmediateForm_congr_move hop (field mask rfl) (field mask rfl) (field mask rfl) h hmove
    by_cases hhigh : fn4Field w = 0xE#4
    · have mask : ignoredBits w = 0x00F00000#32 := ignoredBits_of_fields w _ _ h hhigh
      exact selectImmediateForm_congr_high hop (field mask rfl) (field mask rfl) (field mask rfl) h hhigh
    · have mask : ignoredBits w = 0#32 := by
        rw [ignoredBits_eq, h]
        generalize fn4Field w = fn at hmove hhigh
        revert fn
        decide
      rw [same mask]
  next h =>
    have mask : ignoredBits w = 0x0FF00000#32 := ignoredBits_of_opcode h (by decide)
    rw [show imm20Field (w ^^^ m) = imm20Field w from field mask rfl]
  next h =>
    have mask : ignoredBits w = 0x0F0FFFFF#32 := ignoredBits_of_opcode h (by decide)
    rw [show rsField (w ^^^ m) = rsField w from field mask rfl]
  next h =>
    have mask : ignoredBits w = 0x0FF00000#32 := ignoredBits_of_opcode h (by decide)
    rw [show imm20Field (w ^^^ m) = imm20Field w from field mask rfl]
  next h =>
    have mask : ignoredBits w = 0x0F0FFFFF#32 := ignoredBits_of_opcode h (by decide)
    rw [show rsField (w ^^^ m) = rsField w from field mask rfl]
  next h => rw [same (ignoredBits_of_opcode h (by decide))]
  next h => rw [same (ignoredBits_of_opcode h (by decide))]
  next h =>
    have mask : ignoredBits w = 0x0F000000#32 := ignoredBits_of_opcode h (by decide)
    rw [show rsField (w ^^^ m) = rsField w from field mask rfl,
      show imm20Field (w ^^^ m) = imm20Field w from field mask rfl]
  next h =>
    have mask : ignoredBits w = 0x0F000000#32 := ignoredBits_of_opcode h (by decide)
    rw [show rsField (w ^^^ m) = rsField w from field mask rfl,
      show imm20Field (w ^^^ m) = imm20Field w from field mask rfl]
  next h =>
    have mask : ignoredBits w = 0x00F00000#32 := ignoredBits_of_opcode h (by decide)
    rw [show rdField (w ^^^ m) = rdField w from field mask rfl,
      show imm20Field (w ^^^ m) = imm20Field w from field mask rfl]
  next => rfl

/-! ### The encoding of what a word decodes to -/

theorem encodeR_fields (w : Word) :
    encodeR (opField w) (fn4Field w) (rdField w) (rsField w) (rtField w) = w &&& ~~~0x0000FFF0#32 := by
  apply word_ext
  intro i hi
  simp only [encodeR, opField, fn4Field, rdField, rsField, rtField, BitVec.getLsbD_extractLsb', BitVec.getLsbD_append,
    BitVec.getLsbD_and]
  interval_cases i <;> simp

theorem encodeR_fields_bare (w : Word) :
    encodeR (opField w) (fn4Field w) 0#4 0#4 0#4 = w &&& ~~~0x0FF0FFFF#32 := by
  apply word_ext
  intro i hi
  simp only [encodeR, opField, fn4Field, BitVec.getLsbD_extractLsb', BitVec.getLsbD_append, BitVec.getLsbD_and]
  interval_cases i <;> simp

theorem encodeI_fields (w : Word) :
    encodeI (opField w) (fn4Field w) (rdField w) (rsField w) (imm16Field w) = w &&& ~~~0#32 := by
  apply word_ext
  intro i hi
  simp only [encodeI, opField, fn4Field, rdField, rsField, imm16Field, BitVec.getLsbD_extractLsb', BitVec.getLsbD_append,
    BitVec.getLsbD_and]
  interval_cases i <;> simp

theorem encodeI_fields_move (w : Word) :
    encodeI (opField w) (fn4Field w) (rdField w) (rsField w) 0#16 = w &&& ~~~0x0000FFFF#32 := by
  apply word_ext
  intro i hi
  simp only [encodeI, opField, fn4Field, rdField, rsField, BitVec.getLsbD_extractLsb', BitVec.getLsbD_append,
    BitVec.getLsbD_and]
  interval_cases i <;> simp

theorem encodeI_fields_high (w : Word) :
    encodeI (opField w) (fn4Field w) (rdField w) 0#4 (imm16Field w) = w &&& ~~~0x00F00000#32 := by
  apply word_ext
  intro i hi
  simp only [encodeI, opField, fn4Field, rdField, imm16Field, BitVec.getLsbD_extractLsb', BitVec.getLsbD_append,
    BitVec.getLsbD_and]
  interval_cases i <;> simp

theorem encodeJ_fields (w : Word) :
    encodeJ (opField w) (rdField w) (rsField w) (imm20Field w) = w &&& ~~~0#32 := by
  apply word_ext
  intro i hi
  simp only [encodeJ, opField, rdField, rsField, imm20Field, BitVec.getLsbD_extractLsb', BitVec.getLsbD_append,
    BitVec.getLsbD_and]
  interval_cases i <;> simp

theorem encodeJ_fields_target (w : Word) :
    encodeJ (opField w) 0#4 0#4 (imm20Field w) = w &&& ~~~0x0FF00000#32 := by
  apply word_ext
  intro i hi
  simp only [encodeJ, opField, imm20Field, BitVec.getLsbD_extractLsb', BitVec.getLsbD_append, BitVec.getLsbD_and]
  interval_cases i <;> simp

theorem encodeJ_fields_register (w : Word) :
    encodeJ (opField w) 0#4 (rsField w) 0#20 = w &&& ~~~0x0F0FFFFF#32 := by
  apply word_ext
  intro i hi
  simp only [encodeJ, opField, rsField, BitVec.getLsbD_extractLsb', BitVec.getLsbD_append, BitVec.getLsbD_and]
  interval_cases i <;> simp

theorem encodeJ_fields_branch (w : Word) :
    encodeJ (opField w) 0#4 (rsField w) (imm20Field w) = w &&& ~~~0x0F000000#32 := by
  apply word_ext
  intro i hi
  simp only [encodeJ, opField, rsField, imm20Field, BitVec.getLsbD_extractLsb', BitVec.getLsbD_append, BitVec.getLsbD_and]
  interval_cases i <;> simp

theorem encodeJ_fields_address (w : Word) :
    encodeJ (opField w) (rdField w) 0#4 (imm20Field w) = w &&& ~~~0x00F00000#32 := by
  apply word_ext
  intro i hi
  simp only [encodeJ, opField, rdField, imm20Field, BitVec.getLsbD_extractLsb', BitVec.getLsbD_append, BitVec.getLsbD_and]
  interval_cases i <;> simp

/-- A function code of the register form tells the opcode and the function field apart (R105, R108). -/
theorem fields_of_registerFunction {w : Word} {func : BitVec 5} (hop : opField w = 0x0#4 ∨ opField w = 0x2#4)
    (hfunc : funcField w = func) :
    opField w = 0#2 ++ func.extractLsb' 4 1 ++ 0#1 ∧ fn4Field w = func.extractLsb' 0 4 := by
  rw [← hfunc, funcField_eq]
  generalize fn4Field w = fn
  rcases hop with hop | hop <;> rw [hop] <;> revert fn <;> decide

/-- A function code of the immediate form tells the opcode and the function field apart (R105, R108). -/
theorem fields_of_immediateFunction {w : Word} {func : BitVec 5} (hop : opField w = 0x1#4 ∨ opField w = 0x3#4)
    (hfunc : funcField w = func) :
    opField w = 0#2 ++ func.extractLsb' 4 1 ++ 1#1 ∧ fn4Field w = func.extractLsb' 0 4 := by
  rw [← hfunc, funcField_eq]
  generalize fn4Field w = fn
  rcases hop with hop | hop <;> rw [hop] <;> revert fn <;> decide

/-- The ignored bits of a word of the register form, by its function code (R113). -/
theorem ignoredBits_of_registerFunction {w mask : Word} {func : BitVec 5} (hop : opField w = 0x0#4 ∨ opField w = 0x2#4)
    (hfunc : funcField w = func)
    (hmask : ignoredBits (0#2 ++ func.extractLsb' 4 1 ++ 0#1 ++ 0#8 ++ func.extractLsb' 0 4 ++ 0#16) = mask) :
    ignoredBits w = mask := by
  obtain ⟨hop, hfn⟩ := fields_of_registerFunction hop hfunc
  exact (ignoredBits_of_fields w _ _ hop hfn).trans hmask

/-- The ignored bits of a word of the immediate form, by its function code (R113). -/
theorem ignoredBits_of_immediateFunction {w mask : Word} {func : BitVec 5} (hop : opField w = 0x1#4 ∨ opField w = 0x3#4)
    (hfunc : funcField w = func)
    (hmask : ignoredBits (0#2 ++ func.extractLsb' 4 1 ++ 1#1 ++ 0#8 ++ func.extractLsb' 0 4 ++ 0#16) = mask) :
    ignoredBits w = mask := by
  obtain ⟨hop, hfn⟩ := fields_of_immediateFunction hop hfunc
  exact (ignoredBits_of_fields w _ _ hop hfn).trans hmask

/-- The encoding of what the register form selects: the operands of `break`, `syscall` and `rfe` are ignored, of the others
only the spare bits (R109, R113). -/
theorem encode_of_selectRegisterForm {w : Word} {i : Instr} (hop : opField w = 0x0#4 ∨ opField w = 0x2#4)
    (h : selectRegisterForm w = .ok i) : encode i = w &&& ~~~ignoredBits w := by
  unfold selectRegisterForm at h
  split at h
  case h_32 => cases h
  all_goals
    rename_i hfunc
    cases h
    obtain ⟨hop', hfn⟩ := fields_of_registerFunction hop hfunc
  case h_29 | h_30 | h_31 =>
    rw [ignoredBits_of_registerFunction (mask := 0x0FF0FFFF#32) hop hfunc rfl, ← encodeR_fields_bare, hop', hfn]
    rfl
  all_goals
    rw [ignoredBits_of_registerFunction (mask := 0x0000FFF0#32) hop hfunc rfl, ← encodeR_fields, hop', hfn]
    rfl

/-- The encoding of what the immediate form selects: the moves ignore the immediate, `lhi` the source register, the others
nothing (R109, R113). -/
theorem encode_of_selectImmediateForm {w : Word} {i : Instr} (hop : opField w = 0x1#4 ∨ opField w = 0x3#4)
    (h : selectImmediateForm w = .ok i) : encode i = w &&& ~~~ignoredBits w := by
  unfold selectImmediateForm at h
  split at h
  case h_32 => cases h
  all_goals
    rename_i hfunc
    cases h
    obtain ⟨hop', hfn⟩ := fields_of_immediateFunction hop hfunc
  case h_29 | h_30 =>
    rw [ignoredBits_of_immediateFunction (mask := 0x0000FFFF#32) hop hfunc rfl, ← encodeI_fields_move, hop', hfn]
    rfl
  case h_31 =>
    rw [ignoredBits_of_immediateFunction (mask := 0x00F00000#32) hop hfunc rfl, ← encodeI_fields_high, hop', hfn]
    rfl
  all_goals
    rw [ignoredBits_of_immediateFunction (mask := 0#32) hop hfunc rfl, ← encodeI_fields, hop', hfn]
    rfl

/-- Settles O4, by opcode: the layout of the instruction puts the fields back where the decoder read them. -/
theorem encodeOfDecodeClearsIgnoredBits : Obligations.EncodeOfDecodeClearsIgnoredBits := by
  intro w i h
  unfold decode at h
  split at h
  next hop => exact encode_of_selectRegisterForm (.inl hop) h
  next hop => exact encode_of_selectImmediateForm (.inl hop) h
  next hop => exact encode_of_selectRegisterForm (.inr hop) h
  next hop => exact encode_of_selectImmediateForm (.inr hop) h
  all_goals cases h
  next hop => rw [ignoredBits_of_opcode (mask := 0x0FF00000#32) hop (by decide), ← encodeJ_fields_target, hop]; rfl
  next hop => rw [ignoredBits_of_opcode (mask := 0x0F0FFFFF#32) hop (by decide), ← encodeJ_fields_register, hop]; rfl
  next hop => rw [ignoredBits_of_opcode (mask := 0x0FF00000#32) hop (by decide), ← encodeJ_fields_target, hop]; rfl
  next hop => rw [ignoredBits_of_opcode (mask := 0x0F0FFFFF#32) hop (by decide), ← encodeJ_fields_register, hop]; rfl
  next hop => rw [ignoredBits_of_opcode (mask := 0#32) hop (by decide), ← encodeJ_fields, hop]; rfl
  next hop => rw [ignoredBits_of_opcode (mask := 0#32) hop (by decide), ← encodeJ_fields, hop]; rfl
  next hop => rw [ignoredBits_of_opcode (mask := 0x0F000000#32) hop (by decide), ← encodeJ_fields_branch, hop]; rfl
  next hop => rw [ignoredBits_of_opcode (mask := 0x0F000000#32) hop (by decide), ← encodeJ_fields_branch, hop]; rfl
  next hop => rw [ignoredBits_of_opcode (mask := 0x00F00000#32) hop (by decide), ← encodeJ_fields_address, hop]; rfl

/-! ### Undefined words -/

/-- The register form selects nothing for function code 0x1F and an instruction for every other (R109, R112). -/
theorem selectRegisterForm_cases (w : Word) :
    (funcField w = 0x1F#5 ∧ selectRegisterForm w = .error (.function (opField w))) ∨
    (funcField w ≠ 0x1F#5 ∧ ∃ i, selectRegisterForm w = .ok i) := by
  by_cases h : funcField w = 0x1F#5
  · exact .inl ⟨h, by unfold selectRegisterForm; rw [h]; rfl⟩
  · refine .inr ⟨h, ?_⟩
    unfold selectRegisterForm
    split
    case h_32 =>
      simp only [imp_false] at *
      bv_omega
    all_goals exact ⟨_, rfl⟩

/-- The immediate form selects nothing for function code 0x1F and an instruction for every other (R109, R112). -/
theorem selectImmediateForm_cases (w : Word) :
    (funcField w = 0x1F#5 ∧ selectImmediateForm w = .error (.function (opField w))) ∨
    (funcField w ≠ 0x1F#5 ∧ ∃ i, selectImmediateForm w = .ok i) := by
  by_cases h : funcField w = 0x1F#5
  · exact .inl ⟨h, by unfold selectImmediateForm; rw [h]; rfl⟩
  · refine .inr ⟨h, ?_⟩
    unfold selectImmediateForm
    split
    case h_32 =>
      simp only [imp_false] at *
      bv_omega
    all_goals exact ⟨_, rfl⟩

/-- Function code 0x1F is function field 0xF under an opcode whose bit 1 is 1 (R105). -/
theorem funcField_eq_undefined_iff (w : Word) :
    funcField w = 0x1F#5 ↔ (opField w).extractLsb' 1 1 = 1#1 ∧ fn4Field w = 0xF#4 := by
  rw [funcField_eq]
  generalize opField w = op, fn4Field w = fn
  revert op fn
  decide

/-- A word selects no instruction for its opcode, or none for its function code, or it is well formed and selects one (R110
to R112). -/
theorem decode_cases (w : Word) :
    (13 ≤ (opField w).toNat ∧ decode w = .error (.opcode (opField w))) ∨
    ((opField w = 0x2#4 ∨ opField w = 0x3#4) ∧ fn4Field w = 0xF#4 ∧ decode w = .error (.function (opField w))) ∨
    ((opField w).toNat ≤ 12 ∧ ¬ ((opField w = 0x2#4 ∨ opField w = 0x3#4) ∧ fn4Field w = 0xF#4) ∧
      ∃ i, decode w = .ok i) := by
  have hundef := funcField_eq_undefined_iff w
  unfold decode
  split
  case h_1 h | h_3 h =>
    rw [h] at hundef ⊢
    rcases selectRegisterForm_cases w with ⟨hf, e⟩ | ⟨hf, i, e⟩
    · exact .inr (.inl (by simp_all))
    · exact .inr (.inr (by simp_all))
  case h_2 h | h_4 h =>
    rw [h] at hundef ⊢
    rcases selectImmediateForm_cases w with ⟨hf, e⟩ | ⟨hf, i, e⟩
    · exact .inr (.inl (by simp_all))
    · exact .inr (.inr (by simp_all))
  case h_14 =>
    refine .inl ⟨?_, rfl⟩
    generalize opField w = op at *
    clear hundef
    revert op
    decide
  all_goals
    rename_i h
    rw [h]
    exact .inr (.inr ⟨by decide, by simp, _, rfl⟩)

theorem opField_toNat (w : Word) : (opField w).toNat = w.toNat / 2 ^ 28 := by
  unfold opField
  rw [BitVec.extractLsb'_toNat, Nat.shiftRight_eq_div_pow]
  omega

theorem fn4Field_toNat (w : Word) : (fn4Field w).toNat = w.toNat / 2 ^ 16 % 16 := by
  unfold fn4Field
  rw [BitVec.extractLsb'_toNat, Nat.shiftRight_eq_div_pow]

/-- The word check asks what the decoder asks (R110 to R112). -/
theorem wellFormedWord_iff (w : Word) :
    wellFormedWord w = true ↔
      (opField w).toNat ≤ 12 ∧ ¬ ((opField w = 0x2#4 ∨ opField w = 0x3#4) ∧ fn4Field w = 0xF#4) := by
  simp only [wellFormedWord, opcodeDefined, functionDefined, Bool.and_eq_true, Bool.not_eq_true', Bool.and_eq_false_iff,
    Bool.or_eq_false_iff, beq_eq_false_iff_ne, decide_eq_true_eq, opField, fn4Field]
  tauto

/-- Settles O2, from what the decoder can answer: the three answers exclude one another. -/
theorem undefinedWordsAreRefusedByName : Obligations.UndefinedWordsAreRefusedByName := by
  intro w
  have h2 : opField w = 0x2#4 ↔ w.toNat / 2 ^ 28 = 2 := by rw [← BitVec.toNat_inj, opField_toNat]; rfl
  have h3 : opField w = 0x3#4 ↔ w.toNat / 2 ^ 28 = 3 := by rw [← BitVec.toNat_inj, opField_toNat]; rfl
  have hF : fn4Field w = 0xF#4 ↔ w.toNat / 2 ^ 16 % 16 = 15 := by rw [← BitVec.toNat_inj, fn4Field_toNat]; rfl
  rw [wellFormedWord_iff, ← h2, ← h3, ← hF, ← opField_toNat]
  rcases decode_cases w with ⟨hop, e⟩ | ⟨hop, hfn, e⟩ | ⟨hop, hfn, i, e⟩
  · have hno : ¬ (opField w = 0x2#4 ∨ opField w = 0x3#4) := by rintro (h | h) <;> simp [h] at hop
    simp [e, hop, hno]
    omega
  · simp [e, hfn, hop]
    rcases hop with hop | hop <;> simp [hop]
  · simp only [e, reduceCtorEq, false_iff]
    exact ⟨by omega, hfn, fun _ => ⟨i, rfl⟩, fun _ => ⟨hop, hfn⟩⟩

/-- Settles O5: each word is decoded (R108, R109). -/
theorem exampleWordsDecode : Obligations.ExampleWordsDecode := by
  unfold Obligations.ExampleWordsDecode
  decide

end Sys2Proof
end

section
/-! SUPPORT. Exceptions (R235 to R243): the accumulator and the admitted causes bit by bit, entry and return. -/

namespace Sys2Proof.Machine

/-- The accumulator after a refresh, bit by bit (R236). -/
theorem refreshStatus_status_bit (s : State) (n : Nat) (hn : n < 16) :
    s.refreshStatus.status.getLsbD n =
      if n < 4 then false else if n < 12 then s.irq.getLsbD (n - 4) else s.status.getLsbD n := by
  unfold State.refreshStatus
  interval_cases n <;> simp

/-- Settles O12, bit by bit; the frame is that of the refresh. -/
theorem refreshReplacesExternalBits : Obligations.RefreshReplacesExternalBits := fun s =>
  ⟨refreshStatus_status_bit s, fun _ => rfl, fun _ => rfl, rfl, sameBoard_refreshStatus s⟩

/-- Settles O13: the bus is the disjunction of its five lines. -/
theorem irqLinesFollowAckWords : Obligations.IrqLinesFollowAckWords := by
  intro s n hn
  simp only [State.irq, BitVec.getLsbD_or, irqLine_bit _ _ _ hn]

/-- The causes admitted at a boundary, bit by bit (R236, R237). -/
theorem admittedCauses_bit (s : State) (n : Nat) (hn : n < 16) :
    (admittedCauses s).getLsbD n =
      if n < 4 then false
      else if n < 12 then s.irq.getLsbD (n - 4) && (s.sreg cctrlSlot).getLsbD 1 && (s.sreg cctrlSlot).getLsbD n
      else s.status.getLsbD n := by
  rw [admittedCauses, BitVec.getLsbD_and, refreshStatus_status_bit s n hn, causeMask_bit _ n hn]
  by_cases h4 : n < 4
  · simp [h4]
  · by_cases h12 : n < 12
    · simp [h4, h12, Nat.not_lt.mp h4, Nat.not_le.mpr h12, Bool.and_assoc]
    · simp [h4, h12, Nat.not_lt.mp h12]

/-- Exception entry leaves the machine in kernel mode (R241, R247). -/
theorem exceptionEntry_kernelMode (p : BitVec 16) (s : State) : (exceptionEntry p s).kernelMode = true := by
  rw [State.kernelMode, exceptionEntry_cctrl, entryCctrl_bit _ 3 (by decide)]
  rfl

/-- The address saved by exception entry (R241). -/
theorem exceptionEntry_ear (p : BitVec 16) (s : State) : (exceptionEntry p s).sreg earSlot = zext20 s.pc := by
  rw [exceptionEntry_sreg, if_neg (by decide), if_neg (by decide), if_pos rfl]

/-- The general register saved by exception entry (R241). -/
theorem exceptionEntry_ers (p : BitVec 16) (s : State) : (exceptionEntry p s).sreg ersSlot = s.reg savedReg := by
  rw [exceptionEntry_sreg, if_neg (by decide), if_pos rfl]

/-- The causes reported by exception entry (R241). -/
theorem exceptionEntry_estat (p : BitVec 16) (s : State) : (exceptionEntry p s).sreg estatSlot = p.setWidth 32 := by
  rw [exceptionEntry_sreg, if_pos rfl]

/-- Settles O14: no admitted cause leaves the refresh, any admitted cause is entered with all of them. -/
theorem boundaryTakesAdmittedCauses : Obligations.BoundaryTakesAdmittedCauses := by
  intro s u c admitted
  have hbit : ∀ n, n < 16 → (admittedCauses s).getLsbD n = admitted n := admittedCauses_bit s
  constructor
  · intro hnone
    have hzero : admittedCauses s = 0#16 :=
      word_ext fun n hn => by rw [hbit n hn, hnone n hn, BitVec.getLsbD_zero]
    have hu : u = s.refreshStatus := if_pos hzero
    rw [hu]
    exact ⟨fun _ => rfl, fun _ => rfl, rfl, rfl, sameBoard_refreshStatus s⟩
  · rintro ⟨n, hn, htrue⟩
    have hne : admittedCauses s ≠ 0#16 := fun h => by
      rw [← hbit n hn, h, BitVec.getLsbD_zero] at htrue
      cases htrue
    have hu : u = exceptionEntry (admittedCauses s) s.refreshStatus := if_neg hne
    rw [hu]
    refine ⟨rfl, rfl, fun m hm => ?_, ?_, ?_, exceptionEntry_kernelMode _ _, fun _ => rfl,
      (sameBoard_refreshStatus s).trans (sameBoard_exceptionEntry _ _)⟩
    · rw [exceptionEntry_estat, BitVec.getLsbD_setWidth, decide_eq_true hm, Bool.true_and]
      by_cases h16 : m < 16
      · rw [hbit m h16, decide_eq_true h16, Bool.true_and]
      · rw [BitVec.getLsbD_of_ge _ _ (Nat.le_of_not_lt h16), decide_eq_false h16, Bool.false_and]
    · exact exceptionEntry_ear _ _
    · exact exceptionEntry_ers _ _

/-- Settles O15: the four special registers entry writes, one after the other, and its frame. -/
theorem exceptionEntrySavesAndRedirects : Obligations.ExceptionEntrySavesAndRedirects := by
  intro p s u c
  refine ⟨fun n hn => ?_, ?_, ?_, ?_, fun k h1 h2 h3 h4 => ?_, ?_, rfl, fun _ => rfl, sameBoard_exceptionEntry p s⟩
  · rw [exceptionEntry_cctrl, entryCctrl_bit _ n hn]
  · rw [exceptionEntry_ear, BitVec.ofNat_toNat]; rfl
  · exact exceptionEntry_ers p s
  · rw [exceptionEntry_estat, BitVec.ofNat_toNat]
  · rw [exceptionEntry_sreg, if_neg h4, if_neg h3, if_neg h2, if_neg h1]
  · rw [exceptionEntry_pc, BitVec.ofNat_toNat]; rfl

/-- `rfe` where the mode or the configuration allows it (R222). -/
theorem exec_rfe_allowed {s : State} (h : s.kernelMode = true ∨ s.cfg.rfePrivileged = false) :
    exec .rfe s = .next (returnFromException s).complete := by
  rcases exec_rfe s with ⟨_, e⟩ | ⟨⟨hk, hp⟩, _⟩
  · exact e
  · simp [hk, hp] at h

/-- A special register after a return that completes (R222, R323). -/
theorem complete_returnFromException_sreg (s : State) (k : SReg) :
    (returnFromException s).complete.sreg k =
      if k = icountSlot then s.sreg icountSlot + 1#32
      else if k = cctrlSlot then returnCctrl (s.sreg cctrlSlot) else s.sreg k := by
  rw [State.sreg_complete, returnFromException_sreg, returnFromException_sreg, if_neg (by decide : icountSlot ≠ cctrlSlot)]

/-- Settles O16. -/
theorem rfeReturnsFromException : Obligations.RfeReturnsFromException := by
  intro s h c
  refine ⟨_, exec_rfe_allowed h, fun n hn => ?_, ?_, fun k hc hi => ?_, fun r => ?_, rfl, rfl,
    (sameBoard_returnFromException s).trans (sameBoard_complete _)⟩
  · rw [complete_returnFromException_sreg, if_neg (by decide), if_pos rfl, returnCctrl_bit _ n hn]
  · rw [complete_returnFromException_sreg, if_pos rfl]
  · rw [complete_returnFromException_sreg, if_neg hi, if_neg hc]
  · rw [State.reg_complete, returnFromException_reg]; rfl

/-- An address that has been extended to a word is its low 20 bits (R9). -/
theorem a20_zext20 (a : Addr) : a20 (zext20 a) = a := by
  simp [a20, zext20]

/-- Settles O17: what `rfe` reads back is what entry has saved, and entry has made the return legal. -/
theorem entryThenRfeRestores : Obligations.EntryThenRfeRestores := by
  intro p s c
  refine ⟨_, exec_rfe_allowed (.inl (exceptionEntry_kernelMode p s)), ?_, fun r => ?_, rfl, fun n hn => ?_, ?_,
    fun k h1 h2 h3 h4 h5 => ?_, ?_⟩
  · rw [State.complete_pc, returnFromException_pc, exceptionEntry_ear, a20_zext20]
  · rw [State.reg_complete, returnFromException_reg, exceptionEntry_reg, exceptionEntry_ers]
    split
    · next h => rw [h]
    · rfl
  · rw [complete_returnFromException_sreg, if_neg (by decide), if_pos rfl, exceptionEntry_cctrl, returnCctrl_bit _ n hn,
      entryCctrl_bit _ n hn, entryCctrl_bit _ 0 (by decide), entryCctrl_bit _ 2 (by decide)]
    by_cases h1 : n = 1
    · simp [h1, c]
    · by_cases h3 : n = 3
      · simp [h3, c]
      · simp [h1, h3, c]
  · rw [complete_returnFromException_sreg, if_neg (by decide), if_neg (by decide), exceptionEntry_estat, BitVec.ofNat_toNat]
  · rw [complete_returnFromException_sreg, if_neg h5, if_neg h1, exceptionEntry_sreg]
    simp [h1, h2, h3, h4]
  · exact (sameBoard_exceptionEntry p s).trans ((sameBoard_returnFromException _).trans (sameBoard_complete _))

/-- `break` and `syscall` raise their cause and complete (R220, R221). -/
theorem raise_complete_effect (bit : BitVec 16) (s : State) :
    (s.raise bit).complete.status = s.status ||| bit ∧ SameRegs s (s.raise bit).complete ∧
    Counted s (s.raise bit).complete ∧ (s.raise bit).complete.pc = s.pc ∧ SameBoard s (s.raise bit).complete :=
  ⟨rfl, fun _ => rfl, State.sreg_complete (s.raise bit), rfl, (sameBoard_raise bit s).trans (sameBoard_complete _)⟩

/-- Settles O18: both are the same shape with their own bit. -/
theorem breakAndSyscallRaiseTheirCause : Obligations.BreakAndSyscallRaiseTheirCause := fun s =>
  ⟨⟨_, rfl, raise_complete_effect breakBit s⟩, ⟨_, rfl, raise_complete_effect syscallBit s⟩⟩

end Sys2Proof.Machine
end

section
/-! SUPPORT. The loader and the reset (R300 to R312): the equations of a load, what a record does, the values a reset leaves. -/

namespace Sys2Proof.Machine

/-- An empty line has no effect (R312). -/
theorem loadLines_empty (lines : List (List Char)) (n : Nat) (s : State) :
    loadLines ([] :: lines) n s = loadLines lines n s := by
  rw [loadLines]

/-- A good record takes effect, and the load goes on (R310, R312). -/
theorem loadLines_good {line : List Char} {r : Record} (hr : parseRecord line = .ok r) (lines : List (List Char)) (n : Nat)
    (s : State) : loadLines (line :: lines) n s = loadLines lines (n + (applyRecord r s).1) (applyRecord r s).2 := by
  cases line with
  | nil => cases hr
  | cons c line => rw [loadLines, hr]; simp

/-- A bad record stops the load (R312). -/
theorem loadLines_bad {line : List Char} {e : LoadError} (hne : line ≠ []) (he : parseRecord line = .error e)
    (lines : List (List Char)) (n : Nat) (s : State) :
    loadLines (line :: lines) n s = { words := n, error := some e, state := s } := by
  rw [loadLines, he]
  exact hne

/-- What every record keeps, a load keeps, whether or not it stops at a bad record (R310, R312). -/
theorem loadLines_preserves {P : State → Prop} (hrecord : ∀ r s, P s → P (applyRecord r s).2)
    (lines : List (List Char)) (n : Nat) (s : State) (hs : P s) : P (loadLines lines n s).state := by
  induction lines generalizing n s with
  | nil => exact hs
  | cons line lines ih =>
    by_cases hne : line = []
    · rw [hne, loadLines_empty]
      exact ih n s hs
    cases hp : parseRecord line with
    | error e => rwa [loadLines_bad hne hp]
    | ok r =>
      rw [loadLines_good hp]
      exact ih _ _ (hrecord r s hs)

/-- What a record of type 7 does (R311). -/
theorem applyRecord_seven {r : Record} (s : State) (h7 : r.type = '7') :
    applyRecord r s = (0, { s with pc := BitVec.ofNat 20 r.address }) := by
  unfold applyRecord
  rw [if_neg (by rw [h7]; decide), if_pos h7, a20, BitVec.setWidth_ofNat_of_le (by decide)]

/-- Settles O54. -/
theorem typeSevenRecordSetsPc : Obligations.TypeSevenRecordSetsPc := by
  intro line rest r n s hr h7
  rw [loadLines_good hr, applyRecord_seven s h7]
  rfl

/-- Settles O56, by induction on the good lines: each takes effect in both loads, and the bad one stops the longer. -/
theorem loadStopsAtTheFirstBadRecord : Obligations.LoadStopsAtTheFirstBadRecord := by
  intro good bad rest e n s hgood hne hbad
  induction good generalizing n s with
  | nil => rw [List.nil_append, loadLines_bad hne hbad]; exact ⟨rfl, rfl, rfl, rfl⟩
  | cons line good ih =>
    have htail := fun l hl => hgood l (List.mem_cons_of_mem line hl)
    rcases hgood line List.mem_cons_self with rfl | ⟨r, hr⟩
    · rw [List.cons_append, loadLines_empty, loadLines_empty]
      exact ih n s htail
    · rw [List.cons_append, loadLines_good hr, loadLines_good hr]
      exact ih _ _ htail

/-- The loader's writes to RAM or ROM: each word is at its address, every other word as before, and nothing but memory
changes (R310). -/
theorem loaderWrites_memory (ws : List Word) (a : Nat) (s : State) (hwf : s.mem.wf)
    (h : a + ws.length ≤ ramLength ∨ romBase ≤ a ∧ a + ws.length ≤ romBase + romLength) :
    (∀ j v, ws[j]? = some v → (loaderWrites a ws s).mem.readWord (a + j) = v) ∧
    (∀ b, b < a ∨ a + ws.length ≤ b → (loaderWrites a ws s).mem.readWord b = s.mem.readWord b) ∧
    loaderWrites a ws s = { s with mem := (loaderWrites a ws s).mem } := by
  induction ws generalizing a s with
  | nil => exact ⟨fun j v hj => by simp at hj, fun b _ => rfl, rfl⟩
  | cons w ws ih =>
    rw [List.length_cons] at h ⊢
    have hbacked : a < ramLength ∨ romBase ≤ a ∧ a < romBase + romLength := by omega
    rw [loaderWrites, loaderWrite_memory a w s hbacked]
    obtain ⟨hwords, hothers, hframe⟩ :=
      ih (a + 1) { s with mem := s.mem.writeWord a w } (Memory.wf_writeWord s.mem a w hwf hbacked) (by omega)
    refine ⟨fun j v hj => ?_, fun b hb => ?_, ?_⟩
    · cases j with
      | zero =>
        obtain rfl : w = v := by simpa using hj
        exact (hothers a (.inl a.lt_succ_self)).trans (Memory.readWord_writeWord_same s.mem a w hwf)
      | succ j => rw [← hwords j v (by simpa using hj)]; congr 1; omega
    · rw [hothers b (by omega), Memory.readWord_writeWord_other s.mem a b w (by omega)]
    · rw [hframe]

/-- Settles O55. -/
theorem typeThreeRecordWritesItsWords : Obligations.TypeThreeRecordWritesItsWords := by
  intro r ws s h3 hwords hwf hrange t
  obtain ⟨hread, hothers, hframe⟩ := loaderWrites_memory ws r.address s hwf hrange
  rw [← show t = loaderWrites r.address ws s from congrArg Prod.snd (applyRecord_three s h3 hwords)] at hread hothers hframe
  exact ⟨congrArg Prod.fst (applyRecord_three s h3 hwords), hread, hothers, hframe⟩

/-! ### Reset -/

/-- A general register after a reset (R52). -/
theorem resetGpr_getElem (fill : Word) (r : Reg) :
    (resetGpr fill)[r.toNat] = if r = 0#4 then 0#32 else fill := by
  have hzero : 0 = r.toNat ↔ r = 0#4 := by rw [← BitVec.toNat_inj, eq_comm]; rfl
  simp only [resetGpr, Vector.getElem_set, Vector.getElem_replicate, hzero]

/-- A special register after a reset (R52). -/
theorem resetSpr_getElem (fill : Word) (k : SReg) :
    (resetSpr fill)[k.toNat] = if k = 0#4 then 0#32 else if k = cctrlSlot then 8#32 else fill := by
  have hzero : 0 = k.toNat ↔ k = 0#4 := by rw [← BitVec.toNat_inj, eq_comm]; rfl
  have hcctrl : 4 = k.toNat ↔ k = cctrlSlot := by rw [← BitVec.toNat_inj, eq_comm]; rfl
  simp only [resetSpr, Vector.getElem_set, Vector.getElem_replicate, hzero, hcctrl]
  by_cases h : k = cctrlSlot
  · rw [if_pos h, if_pos h, h]
    rfl
  · rw [if_neg h, if_neg h]

/-- The registers, the buses and the devices hold what a reset puts into them (R52). -/
structure State.AtReset (t : State) : Prop where
  gpr : t.gpr = resetGpr t.cfg.resetFill
  spr : t.spr = resetSpr t.cfg.resetFill
  pc : t.pc = 0x80000#20
  status : t.status = 0#16
  countdown : t.countdown = 0
  abus : t.abus = 0#32
  isWrite : t.isWrite = false
  ir : t.ir = t.cfg.resetIr
  dbus : t.dbus = t.cfg.resetDbus
  timer : t.timer = resetTimer
  serial : ∀ port, t.serial port = resetSerial t.cfg.resetRxPending
  parallel : t.parallel = resetParallel t.parallel.displayChanged
  button : t.button = 0#32

/-- A board reset leaves the reset values (R300). -/
theorem boardReset_atReset (keep : Bool) (s : State) : (boardReset keep s).AtReset :=
  ⟨rfl, rfl, rfl, rfl, rfl, rfl, rfl, rfl, rfl, rfl, fun port => by cases port <;> rfl, rfl, rfl⟩

/-- Construction leaves the reset values (R302). -/
theorem construct_atReset (cfg : Config) (ramInit romImage : Memory) : (State.construct cfg ramInit romImage).AtReset :=
  ⟨rfl, rfl, rfl, rfl, rfl, rfl, rfl, rfl, rfl, rfl, fun port => by cases port <;> rfl, rfl, rfl⟩

theorem State.AtReset.reg {t : State} (h : t.AtReset) (r : Reg) :
    t.reg r = if r = 0#4 then 0#32 else t.cfg.resetFill := by
  unfold State.reg
  split
  · rfl
  · next hr => simp only [h.gpr, resetGpr_getElem, if_neg hr]

theorem State.AtReset.sreg {t : State} (h : t.AtReset) (k : SReg) :
    t.sreg k = if k = 0#4 then 0#32 else if k = cctrlSlot then 8#32 else t.cfg.resetFill := by
  simp only [State.sreg, h.spr, resetSpr_getElem]

theorem State.AtReset.parallel_word {t : State} (h : t.AtReset) {o : Nat} (ho : o < 11) :
    t.parallel.word o = if o = 4 then 1#32 else 0#32 := by
  rw [h.parallel]
  interval_cases o <;> rfl

/-- No device asks for an interrupt right after a reset (R45, R52). -/
theorem State.AtReset.irq {t : State} (h : t.AtReset) : t.irq = 0#32 := by
  have h1 : t.serial1 = resetSerial t.cfg.resetRxPending := h.serial .one
  have h2 : t.serial2 = resetSerial t.cfg.resetRxPending := h.serial .two
  rw [State.irq, h.button, h.timer, h.parallel, h1, h2]
  simp only [irqLine, resetTimer, resetParallel, resetSerial, if_true, BitVec.or_zero]

/-- Memories that agree in the four bytes of a word agree in the word (R62). -/
theorem Memory.readWord_congr {m m' : Memory} {a : Nat}
    (h : ∀ k, k < 4 → m.readByte (byteKey a k) = m'.readByte (byteKey a k)) : m.readWord a = m'.readWord a := by
  simp only [Memory.readWord, h 0 (by decide), h 1 (by decide), h 2 (by decide), h 3 (by decide)]

theorem byteKey_lt_romFirstCell {a k : Nat} (ha : a < ramLength) (hk : k < 4) : byteKey a k < romFirstCell := by
  unfold byteKey romFirstCell
  unfold ramLength at ha
  omega

theorem romFirstCell_le_byteKey {a : Nat} (ha : romBase ≤ a) (k : Nat) : romFirstCell ≤ byteKey a k := by
  unfold byteKey romFirstCell
  unfold romBase at ha
  omega

/-- A word of which nothing is listed is all ones (R52). -/
theorem Memory.readWord_nil (a : Nat) : Memory.readWord [] a = 0xFFFFFFFF#32 := by
  unfold Memory.readWord
  simp only [Memory.readByte]
  rfl

/-- A word of RAM after RAM was cleared (R52). -/
theorem Memory.readWord_clearRam_ram (m : Memory) {a : Nat} (ha : a < ramLength) :
    m.clearRam.readWord a = 0xFFFFFFFF#32 :=
  (Memory.readWord_congr fun _ hk => Memory.readByte_clearRam_ram m _ (byteKey_lt_romFirstCell ha hk)).trans
    (Memory.readWord_nil a)

/-- The reset that clears RAM leaves it all ones, the other leaves its words (R300, R301). -/
theorem boardReset_readWord_ram (keep : Bool) (s : State) {a : Nat} (ha : a < ramLength) :
    (boardReset keep s).mem.readWord a = if keep then s.mem.readWord a else 0xFFFFFFFF#32 := by
  cases keep with
  | true => rfl
  | false => exact Memory.readWord_clearRam_ram s.mem ha

/-- Settles O53: a reset and a construction leave the same registers and devices; memory is as each says. -/
theorem boardResetValues : Obligations.BoardResetValues := by
  intro keep s values t
  have hvalues : ∀ u : State, u.AtReset → values u := fun u h =>
    ⟨h.reg, h.sreg, h.pc, h.status, h.countdown, h.abus, h.isWrite, h.ir, h.dbus, fun port => by rw [h.serial port]; rfl,
      h.timer, fun port => by rw [h.serial port]; exact ⟨rfl, rfl, rfl, rfl, rfl, rfl, rfl, rfl⟩,
      fun o ho => h.parallel_word ho, h.button, h.irq⟩
  refine ⟨hvalues t (boardReset_atReset keep s), hvalues State.reset (construct_atReset _ _ _), rfl, rfl, rfl, rfl, rfl,
    fun a ha => ⟨boardReset_readWord_ram keep s ha, Memory.readWord_nil a⟩, fun a ha => boardReset_readWord_rom keep s ha,
    fun cfg ramInit romImage => ⟨hvalues _ (construct_atReset _ _ _), rfl, rfl, rfl, fun a ha => ?_, fun a ha => ?_⟩⟩
  · exact Memory.readWord_congr fun _ hk => Memory.readByte_ofImages_ram ramInit romImage _ (byteKey_lt_romFirstCell ha hk)
  · exact Memory.readWord_congr fun k _ => Memory.readByte_ofImages_rom ramInit romImage _ (romFirstCell_le_byteKey ha k)

end Sys2Proof.Machine
end

section
/-! SUPPORT. Privilege (R26, R36, R223 to R226, R231, R247): the moves of special registers in both modes, and what can change
the mode. -/

namespace Sys2Proof.Machine

/-- `movsg` in user mode only raises GPF (R224, R231). -/
theorem exec_movsg_user (rd : Reg) (k : SReg) {s : State} (hk : s.kernelMode = false) :
    exec (.movsg rd k) s = .next (s.raise gpfBit) := by
  simp [exec, execMovsg, privileged, hk]

/-- `rfe` where the configuration reserves it for kernel mode (R222). -/
theorem exec_rfe_refused {s : State} (hk : s.kernelMode = false) (hp : s.cfg.rfePrivileged = true) :
    exec .rfe s = .next (s.raise gpfBit) := by
  rcases exec_rfe s with ⟨h, _⟩ | ⟨_, e⟩
  · simp [hk, hp] at h
  · exact e

/-- A special register after a `movgs` that completes: the count comes after the write (R223, R323). -/
theorem complete_setSreg_sreg (s : State) (k j : SReg) (v : Word) :
    (s.setSreg k v).complete.sreg j = (if j = k then v else s.sreg j) + (if j = icountSlot then 1#32 else 0#32) := by
  rw [State.sreg_complete, State.sreg_setSreg, State.sreg_setSreg]
  by_cases h : j = icountSlot
  · rw [if_pos h, if_pos h, h]
  · rw [if_neg h, if_neg h, BitVec.add_zero]

/-- Settles O19. -/
theorem specialMovesInKernelMode : Obligations.SpecialMovesInKernelMode := fun k r s hk =>
  ⟨⟨_, exec_movgs_kernel k r hk, fun j => complete_setSreg_sreg s k j _, fun _ => rfl, rfl, rfl,
    (sameBoard_setSreg _ _ s).trans (sameBoard_complete _)⟩,
   ⟨_, exec_movsg_kernel r k hk, writesRegister_setReg_complete r _ s⟩⟩

/-- Settles O20. -/
theorem privilegedInstructionsTrapInUserMode : Obligations.PrivilegedInstructionsTrapInUserMode := fun k r s hk =>
  ⟨⟨_, exec_movgs_user k r hk, onlyRaises_raise _ s⟩, ⟨_, exec_movsg_user r k hk, onlyRaises_raise _ s⟩,
    fun hp => ⟨_, exec_rfe_refused hk hp, onlyRaises_raise _ s⟩⟩

/-- Settles O22: `movgs` is refused in user mode, and so is `rfe` where it is privileged; no other instruction writes a
special register but `icount`. -/
theorem userModeKeepsSpecialRegisters : Obligations.UserModeKeepsSpecialRegisters := by
  intro i s t hk hrfe h k hi
  by_cases hmove : ∃ rs, i = .movgs k rs
  · obtain ⟨rs, rfl⟩ := hmove
    rw [exec_movgs_user k rs hk] at h
    cases h
    rfl
  by_cases hi : i = .rfe
  · subst hi
    rw [exec_rfe_refused hk (hrfe.resolve_left (fun hne => hne rfl))] at h
    cases h
    rfl
  · exact exec_sreg i s t h k ‹_› (fun rs e => hmove ⟨rs, e⟩) (.inl hi)

/-! ### What changes the mode -/

/-- `rfe` is abandoned exactly where it is refused (R222, R231). -/
theorem abandoned_rfe_eq_false_iff (s : State) :
    abandoned .rfe s = false ↔ s.kernelMode = true ∨ s.cfg.rfePrivileged = false := by
  cases hk : s.kernelMode <;> cases hp : s.cfg.rfePrivileged <;> simp [abandoned, hk, hp]

/-- `rfe` that completes returns to the mode in `OKU` (R222, R247). -/
theorem kernelMode_of_rfe {s t : State} (h : exec .rfe s = .next t) (ha : abandoned .rfe s = false) :
    t.kernelMode = (s.sreg cctrlSlot).getLsbD 2 := by
  rw [exec_rfe_allowed ((abandoned_rfe_eq_false_iff s).mp ha)] at h
  cases h
  rw [State.kernelMode, complete_returnFromException_sreg, if_neg (by decide), if_pos rfl, returnCctrl_bit _ 3 (by decide)]
  rfl

/-- `movgs` to `cctrl` sets the mode from kernel mode and is refused in user mode (R223, R247). -/
theorem kernelMode_of_movgs_cctrl {rs : Reg} {s t : State} (h : exec (.movgs cctrlSlot rs) s = .next t) :
    t.kernelMode = if s.kernelMode then (s.reg rs).getLsbD 3 else false := by
  cases hk : s.kernelMode with
  | true =>
    rw [exec_movgs_kernel _ _ hk] at h
    cases h
    rw [State.kernelMode, complete_setSreg_sreg, if_pos rfl, if_neg (by decide), BitVec.add_zero]
    rfl
  | false =>
    rw [exec_movgs_user _ _ hk] at h
    cases h
    exact hk

/-- No other instruction changes the mode, nor an `rfe` that is refused (R247). -/
theorem kernelMode_of_exec_other {i : Instr} {s t : State} (h : exec i s = .next t)
    (hr : i ≠ .rfe ∨ abandoned i s = true) (hm : ∀ rs, i ≠ .movgs cctrlSlot rs) : t.kernelMode = s.kernelMode := by
  by_cases hi : i = .rfe
  · subst hi
    have hrefused := (not_congr (abandoned_rfe_eq_false_iff s)).mp (by simp [hr.resolve_left (fun hne => hne rfl)])
    rw [not_or, Bool.not_eq_true, Bool.not_eq_false] at hrefused
    rw [exec_rfe_refused hrefused.1 hrefused.2] at h
    cases h
    rfl
  · exact kernelMode_congr (exec_sreg i s t h cctrlSlot (by decide) hm (.inl hi))

/-- A board reset puts the machine into kernel mode (R52, R247). -/
theorem boardReset_kernelMode (keep : Bool) (s : State) : (boardReset keep s).kernelMode = true := by
  have hcctrl : (boardReset keep s).sreg cctrlSlot = 8#32 := resetSpr_getElem s.cfg.resetFill cctrlSlot
  rw [State.kernelMode, hcctrl]
  rfl

/-- A boundary that admits no cause keeps the mode (R240). -/
theorem atFetch_kernelMode {s : State} (h : admittedCauses (beginTick s) = 0#16) :
    (atFetch s).kernelMode = s.kernelMode := by
  unfold atFetch boundaryCheck
  rw [if_pos h]
  exact kernelMode_congr (beginTick_sreg s cctrlSlot)

/-- A tick without exception, `rfe` and `movgs` to `cctrl` keeps the mode (R247). -/
theorem kernelMode_of_step {s t : State} (h : step s = .next t)
    (hboundary : s.countdown = 0 → admittedCauses (beginTick s) = 0#16) (hrfe : s.issued ≠ some .rfe)
    (hmovgs : ∀ rs, s.issued ≠ some (.movgs cctrlSlot rs)) : t.kernelMode = s.kernelMode := by
  rcases step_cases s t h with ⟨_, _, rfl⟩ | ⟨h0, _, _, rfl⟩ | ⟨f, h0, _, hf, rfl⟩ | ⟨i, f, u, h0, hi, hf, hu, rfl⟩
  · exact kernelMode_congr (beginTick_sreg s cctrlSlot)
  all_goals rw [← atFetch_kernelMode (hboundary h0)]
  · exact kernelMode_congr (State.sreg_congr (afterTableRead_frame _ _).2.1 cctrlSlot)
  · exact kernelMode_congr (State.sreg_congr (fetch_frame _ _ hf).2.1 cctrlSlot)
  · have hother : u.kernelMode = (issueState i f).kernelMode :=
      kernelMode_of_exec_other hu (.inl fun e => hrfe (hi.trans (congrArg some e)))
        fun rs e => hmovgs rs (hi.trans (congrArg some e))
    exact hother.trans (kernelMode_congr (State.sreg_congr (fetch_frame _ _ hf).2.1 cctrlSlot))

/-- A record leaves the special registers alone (R310, R311). -/
theorem applyRecord_spr (r : Record) (s : State) : (applyRecord r s).2.spr = s.spr := by
  unfold applyRecord
  split
  · split
    · exact (loaderWrites_frame _ _ s).2.1
    · rfl
  · split <;> rfl

/-- A byte from the host starts a reception, or nothing happens (R288). -/
theorem trySend_cases (p : Port) (b : Byte) (s : State) :
    ((s.serial p).ready = true ∧ trySend p b s = (true,
      s.setSerial p (Serial.startReceive s.cfg.clockHz s.cfg.rxGuardTicks (s.serial p) b))) ∨
    ((s.serial p).ready = false ∧ trySend p b s = (false, s)) := by
  cases h : (s.serial p).ready <;> simp [trySend, h]

/-- A host action other than a reset leaves the special registers alone (R330). -/
theorem hostAct_spr {a : HostAction} (s : State) (h : ∀ keep, a ≠ .reset keep) : (hostAct a s).spr = s.spr := by
  cases a with
  | reset keep => exact absurd rfl (h keep)
  | load text => exact loadLines_preserves (P := fun u => u.spr = s.spr) (fun r u hu => (applyRecord_spr r u).trans hu) _ _ _ rfl
  | trySend p b =>
    rcases trySend_cases p b s with ⟨_, e⟩ | ⟨_, e⟩ <;> rw [hostAct, e]
    rfl
  | _ => rfl

/-- In kernel mode the fetch reads at `pc` itself (R75, R79, R247). -/
theorem fetch_kernel {s : State} (hk : s.kernelMode = true) :
    fetch s = .done () { (physRead s.pc s).2 with ir := (physRead s.pc s).1, pc := s.pc + 1#20 } := by
  rw [fetch_permitted s (accessPermitted_kernel _ s hk)]
  simp [physicalAddress, afterTableRead, hk]

/-- In user mode an access is permitted exactly when its page's bit in the table word read is 1 (R75, R76). -/
theorem accessPermitted_user {la : Addr} {s : State} (hk : s.kernelMode = false) :
    accessPermitted la s =
      (physRead (tableAddress (relocate la s) s) s).1.getLsbD (tableBit (relocate la s)) := by
  rw [physRead_value, accessPermitted, hk, Bool.false_or]
  rfl

/-- In user mode a fetch whose page is permitted reads at the relocated address, after the table read (R75, R79, R247). -/
theorem fetch_user_permitted {s : State} (hk : s.kernelMode = false)
    (hp : (physRead (tableAddress (relocate s.pc s) s) s).1.getLsbD (tableBit (relocate s.pc s)) = true) :
    fetch s = .done ()
      { (physRead (relocate s.pc s) (physRead (tableAddress (relocate s.pc s) s) s).2).2 with
        ir := (physRead (relocate s.pc s) (physRead (tableAddress (relocate s.pc s) s) s).2).1, pc := s.pc + 1#20 } := by
  rw [fetch_permitted s ((accessPermitted_user hk).trans hp)]
  simp [physicalAddress, afterTableRead, hk]

/-- In user mode a fetch whose page is forbidden stops after the table read (R75, R321, R247). -/
theorem fetch_user_denied {s : State} (hk : s.kernelMode = false)
    (hp : (physRead (tableAddress (relocate s.pc s) s) s).1.getLsbD (tableBit (relocate s.pc s)) = false) :
    fetch s = .denied ((physRead (tableAddress (relocate s.pc s) s) s).2.raise gpfBit) := by
  rw [fetch_denied s ((accessPermitted_user hk).trans hp)]
  simp [afterTableRead, hk]

/-- Settles O21: what sets the mode, what keeps it, and the fetch in either mode. -/
theorem modeChangesCompleteList : Obligations.ModeChangesCompleteList := by
  refine ⟨exceptionEntry_kernelMode, fun _ _ => kernelMode_of_rfe, fun _ _ _ => kernelMode_of_movgs_cctrl,
    boardReset_kernelMode, fun _ _ _ => kernelMode_of_exec_other, fun s t h hne => ?_,
    fun a s h => kernelMode_congr (State.sreg_congr (hostAct_spr s h) cctrlSlot),
    fun s hk => ⟨accessPermitted_kernel _ s hk, fetch_kernel hk⟩,
    fun s hk => ⟨fetch_user_permitted hk, fetch_user_denied hk⟩⟩
  by_contra hno
  push Not at hno
  obtain ⟨hboundary, hrfe, hmovgs⟩ := hno
  exact hne (kernelMode_of_step h hboundary hrfe hmovgs)

/-! ### Abandoned or counted -/

/-- An instruction with an ALU operation ends as its result says (R131, R132, R170, R171). -/
theorem exec_of_aluOperation {i : Instr} {s : State} {f : AluFn} {a b : Word} (h : aluOperation i s = some (f, a, b)) :
    ∃ rd, exec i s = .next (writeResult rd (alu f a b) s) := by
  cases i <;> cases h <;> exact ⟨_, rfl⟩

/-- An ALU instruction is abandoned exactly when its operation faults (R131, R323). -/
theorem abandoned_of_aluOperation {i : Instr} {s : State} {f : AluFn} {a b : Word}
    (h : aluOperation i s = some (f, a, b)) : abandoned i s = (alu f a b).isNone := by
  cases i <;> cases h <;> rfl

/-- What an abandoned instruction does to the registers, memory and the accumulator (R12, R322, R323). -/
def AbandonedWith (bit : BitVec 16) (s t : State) : Prop :=
  SameRegs s t ∧ SameSpecials s t ∧ SameMemory s t ∧ t.pc = s.pc ∧ t.status = s.status ||| bit

theorem abandonedWith_raise (bit : BitVec 16) (s : State) : AbandonedWith bit s (s.raise bit) :=
  ⟨fun _ => rfl, fun _ => rfl, fun _ => rfl, rfl, rfl⟩

/-- A refused access abandons its instruction (R211, R212). -/
theorem abandonedWith_afterTableRead {la : Addr} {s : State} (h : accessPermitted la s = false) :
    AbandonedWith gpfBit s ((afterTableRead la s).raise gpfBit) := by
  obtain ⟨hstatus, hregs, hspecials, hpc, hmem, _⟩ := refusedAccess_raise la s h
  exact ⟨hregs, hspecials, hmem, hpc, hstatus⟩

/-- `lw` where the access is permitted (R211). -/
theorem exec_lw_permitted (rd : Reg) {rs : Reg} {offset : BitVec 20} {s : State}
    (h : accessPermitted (effectiveAddress rs offset s) s = true) :
    exec (.lw rd rs offset) s = .next
      ((physRead (physicalAddress (effectiveAddress rs offset s) s) (afterTableRead (effectiveAddress rs offset s) s)).2.setReg
        rd (physRead (physicalAddress (effectiveAddress rs offset s) s)
          (afterTableRead (effectiveAddress rs offset s) s)).1).complete := by
  rcases exec_lw rd rs offset s with ⟨_, e⟩ | ⟨hdenied, _⟩
  · exact e
  · simp [h] at hdenied

/-- `lw` where the access is refused (R211). -/
theorem exec_lw_refused (rd : Reg) {rs : Reg} {offset : BitVec 20} {s : State}
    (h : accessPermitted (effectiveAddress rs offset s) s = false) :
    exec (.lw rd rs offset) s = .next ((afterTableRead (effectiveAddress rs offset s) s).raise gpfBit) := by
  rcases exec_lw rd rs offset s with ⟨hp, _⟩ | ⟨_, e⟩
  · simp [h] at hp
  · exact e

/-- `sw` where the access is refused (R212). -/
theorem exec_sw_refused (rd : Reg) {rs : Reg} {offset : BitVec 20} {s : State}
    (h : accessPermitted (effectiveAddress rs offset s) s = false) :
    exec (.sw rd rs offset) s = .next ((afterTableRead (effectiveAddress rs offset s) s).raise gpfBit) := by
  rcases exec_sw rd rs offset s with ⟨hp, _⟩ | ⟨_, e⟩
  · simp [h] at hp
  · exact e

/-- An abandoned instruction only raises its cause, ARITH if it has an ALU operation, else GPF (R322, R323). -/
theorem exec_abandoned {i : Instr} {s : State} (ha : abandoned i s = true) :
    ∃ t, exec i s = .next t ∧ AbandonedWith (if (aluOperation i s).isSome then arithBit else gpfBit) s t := by
  cases hop : aluOperation i s with
  | some operation =>
    obtain ⟨f, a, b⟩ := operation
    obtain ⟨rd, e⟩ := exec_of_aluOperation hop
    rw [abandoned_of_aluOperation hop, Option.isNone_iff_eq_none] at ha
    rw [ha] at e
    exact ⟨_, e, abandonedWith_raise arithBit s⟩
  | none =>
    unfold abandoned at ha
    split at ha
    next k rs => exact ⟨_, exec_movgs_user k rs (by simpa using ha), abandonedWith_raise gpfBit s⟩
    next rd k => exact ⟨_, exec_movsg_user rd k (by simpa using ha), abandonedWith_raise gpfBit s⟩
    next =>
      obtain ⟨hp, hk⟩ : s.cfg.rfePrivileged = true ∧ s.kernelMode = false := by simpa using ha
      exact ⟨_, exec_rfe_refused hk hp, abandonedWith_raise gpfBit s⟩
    next rd rs offset =>
      have hp : accessPermitted (effectiveAddress rs offset s) s = false := by simpa using ha
      exact ⟨_, exec_lw_refused rd hp, abandonedWith_afterTableRead hp⟩
    next rd rs offset =>
      have hp : accessPermitted (effectiveAddress rs offset s) s = false := by simpa using ha
      exact ⟨_, exec_sw_refused rd hp, abandonedWith_afterTableRead hp⟩
    next => rw [hop] at ha; cases ha

/-- An instruction that is not abandoned completes, and only a `movgs` to `icount` touches the count before (R323). -/
theorem exec_completes {i : Instr} {s t : State} (h : exec i s = .next t) (ha : abandoned i s = false)
    (hm : ∀ rs, i ≠ .movgs icountSlot rs) : t.sreg icountSlot = s.sreg icountSlot + 1#32 := by
  suffices ∃ u : State, t = u.complete ∧ u.sreg icountSlot = s.sreg icountSlot by
    obtain ⟨u, rfl, hu⟩ := this
    rw [State.sreg_complete, if_pos rfl, hu]
  rcases exec_cases i s with ⟨rd, f, a, b, hop, e⟩ | ⟨rd, a, rfl, e⟩ | ⟨a, _, e⟩ | ⟨a, _, e⟩ |
    ⟨rs, o, _, e⟩ | ⟨rs, o, _, e⟩ | ⟨rd, rs, o, rfl⟩ | ⟨rd, rs, o, rfl⟩ | ⟨_, e⟩ | ⟨_, e⟩ | rfl | ⟨k, rs, rfl, e⟩ |
    ⟨rd, k, rfl, e⟩
  · rw [abandoned_of_aluOperation hop, Option.isNone_eq_false_iff, Option.isSome_iff_exists] at ha
    obtain ⟨v, hv⟩ := ha
    rw [e, hv] at h
    cases h
    exact ⟨s.setReg rd v, rfl, rfl⟩
  · rw [e] at h; cases h; exact ⟨_, rfl, rfl⟩
  · rw [e] at h; cases h; exact ⟨_, rfl, rfl⟩
  · rw [e] at h; cases h; exact ⟨_, rfl, rfl⟩
  · rw [e, branchIf_cases] at h; cases h; exact ⟨_, rfl, rfl⟩
  · rw [e, branchIf_cases] at h; cases h; exact ⟨_, rfl, rfl⟩
  · rw [exec_lw_permitted rd (by simpa [abandoned] using ha)] at h
    cases h
    obtain ⟨_, hspr, _⟩ := afterTableRead_frame (effectiveAddress rs o s) s
    exact ⟨_, rfl, State.sreg_congr ((physRead_frame _ _).2.1.trans hspr) icountSlot⟩
  · rw [exec_sw_permitted (by simpa [abandoned] using ha)] at h
    cases h
    obtain ⟨_, hspr, _⟩ := afterTableRead_frame (effectiveAddress rs o s) s
    exact ⟨_, rfl, State.sreg_congr ((physWrite_frame _ _ _).2.1.trans hspr) icountSlot⟩
  · rw [e] at h; cases h; exact ⟨_, rfl, rfl⟩
  · rw [e] at h; cases h; exact ⟨_, rfl, rfl⟩
  · rw [exec_rfe_allowed ((abandoned_rfe_eq_false_iff s).mp ha)] at h
    cases h
    exact ⟨_, rfl, returnFromException_sreg s icountSlot⟩
  · have hk : s.kernelMode = true := by simpa [abandoned] using ha
    rw [exec_movgs_kernel k rs hk] at h
    cases h
    refine ⟨_, rfl, ?_⟩
    rw [State.sreg_setSreg, if_neg]
    rintro rfl
    exact hm rs rfl
  · have hk : s.kernelMode = true := by simpa [abandoned] using ha
    rw [exec_movsg_kernel rd k hk] at h
    cases h
    exact ⟨_, rfl, rfl⟩

/-- Settles O23: an abandoned instruction only raises, every other one completes. -/
theorem abandonedOrCounted : Obligations.AbandonedOrCounted := by
  intro i s t h
  refine ⟨fun ha => ?_, exec_completes h, ?_⟩
  · obtain ⟨u, hu, heffect⟩ := exec_abandoned ha
    obtain rfl : u = t := Host.Outcome.next.inj (hu.symm.trans h)
    exact heffect
  · rintro rs rfl ha
    have hk : s.kernelMode = true := by simpa [abandoned] using ha
    rw [exec_movgs_kernel _ rs hk] at h
    cases h
    rw [complete_setSreg_sreg, if_pos rfl, if_pos rfl]

end Sys2Proof.Machine
end

section
/-! SUPPORT. The bus and the MPU (R65 to R79, R210 to R215): the address map in numbers, and the effects of loads and stores. -/

namespace Sys2Proof.Machine

/-- The first window of a map answers the addresses it holds, the others are left to the rest (R65). -/
theorem map_find?_holds_cons (w : Window) (ws : List Window) (a : Nat) :
    ((w :: ws).find? (fun w => w.holds a)).map (fun w => (w.device, a - w.base)) =
      if w.base ≤ a ∧ a < w.base + w.length then some (w.device, a - w.base)
      else (ws.find? (fun w => w.holds a)).map (fun w => (w.device, a - w.base)) := by
  rw [List.find?_cons]
  by_cases h : w.base ≤ a ∧ a < w.base + w.length
  · simp [Window.holds, h]
  · rw [if_neg h, show w.holds a = false by simpa [Window.holds] using h]

/-- The address map in numbers (R65, R284). -/
theorem answering_eq (v : ParallelVariant) (a : Nat) :
    answering v a =
      if a < 0x20000 then some (.ram, a)
      else if 0x70000 ≤ a ∧ a < 0x70005 then some (.serial .one, a - 0x70000)
      else if 0x71000 ≤ a ∧ a < 0x71005 then some (.serial .two, a - 0x71000)
      else if 0x72000 ≤ a ∧ a < 0x72004 then some (.timer, a - 0x72000)
      else if 0x73000 ≤ a ∧ a < 0x73000 + v.length then some (.parallel, a - 0x73000)
      else if 0x7F000 ≤ a ∧ a < 0x7F001 then some (.button, a - 0x7F000)
      else if 0x80000 ≤ a ∧ a < 0xC0000 then some (.rom, a - 0x80000)
      else none := by
  have hmap : answering v a = ((addressMap v).find? (fun w => w.holds a)).map (fun w => (w.device, a - w.base)) := by
    unfold answering
    split <;> simp [*]
  simp only [hmap, addressMap, map_find?_holds_cons, List.find?_nil, Option.map_none, ramLength, romBase, romLength,
    Nat.zero_le, true_and, Nat.zero_add, Nat.sub_zero, Nat.reduceAdd]


/-- A read transaction drives the buses with its address and its word (R70). -/
theorem physRead_driven (pa : Addr) (s : State) : DrivenByRead pa (s.busWord pa.toNat) (physRead pa s).2 := by
  obtain ⟨_, _, _, _, _, _, _, _, _, _, _, _, _, _, habus, hwrite⟩ := physRead_frame pa s
  exact ⟨habus, hwrite, (physRead_dbus pa s).trans (physRead_value pa s)⟩

/-- Settles O24, window by window of the address map. -/
theorem addressMapAnswers : Obligations.AddressMapAnswers := by
  intro s pa a word
  have hword : s.busWord a = word := by
    simp only [State.busWord, answering_eq, word]
    clear_value a
    clear word
    by_cases hram : a < 0x20000
    · simp [hram, State.deviceWord]
    rw [if_neg hram, if_neg hram]
    by_cases hserial1 : 0x70000 ≤ a ∧ a < 0x70005
    · obtain ⟨_, _⟩ := hserial1
      interval_cases a <;> rfl
    rw [if_neg hserial1]
    by_cases hserial2 : 0x71000 ≤ a ∧ a < 0x71005
    · obtain ⟨_, _⟩ := hserial2
      interval_cases a <;> rfl
    rw [if_neg hserial2]
    by_cases htimer : 0x72000 ≤ a ∧ a < 0x72004
    · obtain ⟨_, _⟩ := htimer
      interval_cases a <;> rfl
    rw [if_neg htimer]
    by_cases hparallel : 0x73000 ≤ a ∧ a < 0x73000 + s.cfg.parallelVariant.length
    · rw [if_pos hparallel]
      cases hv : s.cfg.parallelVariant <;>
      · obtain ⟨_, hlt⟩ := hv ▸ hparallel
        simp only [ParallelVariant.length] at hlt
        interval_cases a <;> rfl
    rw [if_neg hparallel]
    by_cases hbutton : 0x7F000 ≤ a ∧ a < 0x7F001
    · obtain rfl : a = 0x7F000 := by omega
      rfl
    rw [if_neg hbutton]
    by_cases hrom : 0x80000 ≤ a ∧ a < 0xC0000
    · simp (disch := omega) only [if_neg]
      rw [if_pos hrom, if_pos hrom]
      exact congrArg s.mem.readWord (Nat.add_sub_cancel' hrom.1)
    · rw [if_neg hrom]
      cases hv : s.cfg.parallelVariant <;>
      · rw [hv] at hparallel
        simp only [ParallelVariant.length] at hparallel
        simp (disch := omega) only [if_neg, reduceCtorEq, and_false, if_false]
  have hvalue := (physRead_value pa s).trans hword
  obtain ⟨habus, hwrite, hdbus⟩ := physRead_driven pa s
  exact ⟨hvalue, hword, habus, hwrite, hdbus.trans hword⟩

/-- Settles O27: where nothing answers, a transaction only drives the buses. -/
theorem unmappedAddressesReadTheStaleBus : Obligations.UnmappedAddressesReadTheStaleBus := by
  intro s pa v h
  have hread : physRead pa s = (s.dbus, { s with isWrite := false, abus := zext20 pa }) := by
    unfold physRead
    rw [h]
    rfl
  refine ⟨hread, ?_, ?_⟩
  · unfold physWrite
    rw [h]
    rfl
  · rintro hk rfl
    rw [fetch_kernel hk, hread]

/-- Settles O28: each read, whatever causes it, is a read transaction. -/
theorem onlyRxHasAReadSideEffect : Obligations.OnlyRxHasAReadSideEffect := by
  refine ⟨physRead_touches, fun rd rs offset s hk => ?_, fun s hk => ⟨_, fetch_kernel hk, (physRead_touches s.pc s).1⟩,
    fun la s hk => ?_, fun a s => ⟨⟨rfl, rfl, rfl, rfl, rfl⟩, fun _ => rfl, rfl⟩⟩
  · refine ⟨_, exec_lw_permitted rd (accessPermitted_kernel _ s hk), ?_⟩
    simp only [physicalAddress, afterTableRead, hk, if_true]
    exact (physRead_touches _ s).1
  · rcases afterTableRead_cases la s with ⟨h, _⟩ | ⟨_, e⟩
    · simp [hk] at h
    · rw [e]
      exact (physRead_touches _ s).1

/-- The relocated address as a number (R75). -/
theorem relocate_value (la : Addr) (s : State) :
    relocate la s = BitVec.ofNat 20 (la.toNat + (s.sreg rbaseSlot).toNat) := by
  apply BitVec.eq_of_toNat_eq
  simp only [relocate, a20, zext20, BitVec.toNat_setWidth, BitVec.toNat_add, BitVec.toNat_ofNat]
  omega

/-- The table word's address as a number (R75, R76). -/
theorem tableAddress_value (pa : Addr) (s : State) :
    tableAddress pa s = BitVec.ofNat 20 ((s.sreg ptableSlot).toNat + pa.toNat / 32768) := by
  apply BitVec.eq_of_toNat_eq
  simp only [tableAddress, a20, BitVec.toNat_setWidth, BitVec.toNat_add, BitVec.toNat_ofNat, BitVec.extractLsb'_toNat,
    Nat.shiftRight_eq_div_pow]
  omega

/-- The table word's bit as a number (R75, R76). -/
theorem tableBit_value (pa : Addr) : tableBit pa = pa.toNat / 1024 % 32 := by
  simp only [tableBit, BitVec.extractLsb'_toNat, Nat.shiftRight_eq_div_pow, Nat.reducePow]

/-- In user mode translation makes the table read, and grants or refuses the relocated address by its page's bit (R75). -/
theorem translate_user {la : Addr} {s : State} (hk : s.kernelMode = false) :
    translate la s =
      if (s.busWord (tableAddress (relocate la s) s).toNat).getLsbD (tableBit (relocate la s)) then
        .done (relocate la s) (physRead (tableAddress (relocate la s) s) s).2
      else .denied ((physRead (tableAddress (relocate la s) s) s).2.raise gpfBit) := by
  simp only [translate, hk, Bool.false_eq_true, if_false, physRead_value]

/-- Settles O29: the relocated address, the table word's address and its bit are the numbers the spec gives. -/
theorem translationFollowsTheTable : Obligations.TranslationFollowsTheTable := by
  intro la s
  refine ⟨translate_kernel la s, fun hk => ?_⟩
  have htranslate := translate_user (la := la) hk
  simp only [tableAddress_value, tableBit_value, relocate_value] at htranslate
  refine ⟨_, physRead_touches _ s, physRead_driven _ s, fun hp => ?_, fun hp => ?_⟩
  · rw [htranslate, if_pos hp]
  · rw [htranslate, if_neg (by rw [hp]; decide)]
    rfl

/-! ### Loads and stores -/

/-- A load that completes changes its register and the count, and besides only what its reads touch (R211, R214). -/
theorem complete_setReg_physRead_afterTableRead_frame (la pa : Addr) (rd : Reg) (v : Word) (s : State) :
    RegWritten rd v s (((physRead pa (afterTableRead la s)).2.setReg rd v).complete) ∧
    Counted s (((physRead pa (afterTableRead la s)).2.setReg rd v).complete) ∧
    (((physRead pa (afterTableRead la s)).2.setReg rd v).complete).pc = s.pc ∧
    (((physRead pa (afterTableRead la s)).2.setReg rd v).complete).status = s.status ∧
    SameMemory s (((physRead pa (afterTableRead la s)).2.setReg rd v).complete) ∧
    SameSequencer s (((physRead pa (afterTableRead la s)).2.setReg rd v).complete) := by
  obtain ⟨mgpr, mspr, mpc, mstatus, mir, mcount, mticks, mmem, mcfg, _, _, _, mcompleted, msent⟩ := afterTableRead_frame la s
  obtain ⟨ngpr, nspr, npc, nstatus, nir, ncount, nticks, nmem, ncfg, _, _, _, ncompleted, nsent, _⟩ :=
    physRead_frame pa (afterTableRead la s)
  have hsreg := State.sreg_congr (nspr.trans mspr)
  refine ⟨fun r => ?_, fun k => ?_, npc.trans mpc, nstatus.trans mstatus,
    fun key => congrArg (Memory.readByte · key) (nmem.trans mmem), nir.trans mir, ncount.trans mcount, nticks.trans mticks,
    ncompleted.trans mcompleted, nsent.trans msent, ncfg.trans mcfg⟩
  · rw [State.reg_complete, State.reg_setReg, State.reg_congr (ngpr.trans mgpr)]
  · rw [State.sreg_complete, State.sreg_setReg, State.sreg_setReg, hsreg, hsreg]

/-- Settles O30: the frame of a load that completes, and the devices and buses after its read. -/
theorem loadWordReadsTheBus : Obligations.LoadWordReadsTheBus := by
  intro rd rs offset s ea m pa hp
  obtain ⟨hreg, hcounted, hpc, hstatus, hmem, hseq⟩ :=
    complete_setReg_physRead_afterTableRead_frame ea pa rd (m.busWord pa.toNat) s
  refine ⟨effectiveAddress_value rs offset s, _, exec_lw_permitted rd hp, ?_⟩
  rw [physRead_value]
  exact ⟨hreg, hcounted, hpc, hstatus, hmem, hseq, (physRead_touches pa m).1, physRead_driven pa m⟩

/-- A strobed store does to the devices what it does, whatever the buses hold (R71, R73). -/
theorem sameDevices_deviceStore_driveWrite (d : Device) (o : Nat) (v w : Word) (pa : Addr) (s : State) :
    SameDevices (s.deviceStore d o v) ((s.driveWrite pa w).deviceStore d o v) := by
  cases d with
  | serial p => cases p <;> exact ⟨rfl, rfl, rfl, rfl, rfl⟩
  | _ => exact ⟨rfl, rfl, rfl, rfl, rfl⟩

/-- What a write transaction does to the devices: the device that answers takes the word by its write rule, and where
nothing answers none changes (R71, R67). -/
theorem physWrite_devices (pa : Addr) (v : Word) (s : State) :
    (∀ d o, answering s.cfg.parallelVariant pa.toNat = some (d, o) → SameDevices (s.deviceStore d o v) (physWrite pa v s)) ∧
    (answering s.cfg.parallelVariant pa.toNat = none → SameDevices s (physWrite pa v s)) := by
  unfold physWrite
  refine ⟨fun d o h => ?_, fun h => ?_⟩ <;> rw [h]
  · exact sameDevices_deviceStore_driveWrite d o v v pa s
  · exact ⟨rfl, rfl, rfl, rfl, rfl⟩

/-- A byte outside the RAM word written by a transaction reads as before (R71, R69). -/
theorem physWrite_readByte_other {pa : Addr} {key : Nat} (v : Word) (s : State)
    (h : ¬ (pa.toNat < 0x20000 ∧ byteKey pa.toNat 0 ≤ key ∧ key ≤ byteKey pa.toNat 3)) :
    (physWrite pa v s).mem.readByte key = s.mem.readByte key := by
  rw [physWrite_mem]
  split
  · next hram => exact Memory.readByte_writeWord_other _ _ _ _ (by unfold ramLength at hram; omega)
  · rfl

/-- A byte of the RAM word written by a transaction reads as the byte of the value (R62, R71). -/
theorem physWrite_readByte_same {pa : Addr} {key : Nat} (v : Word) (s : State) (hwf : s.mem.wf)
    (h : pa.toNat < 0x20000 ∧ byteKey pa.toNat 0 ≤ key ∧ key ≤ byteKey pa.toNat 3) :
    (physWrite pa v s).mem.readByte key = byteOfWord v (key - byteKey pa.toNat 0) := by
  obtain ⟨hram, hlow, hhigh⟩ := h
  rw [physWrite_mem, if_pos (show pa.toNat < ramLength from hram)]
  obtain ⟨k, rfl⟩ := Nat.exists_eq_add_of_le hlow
  have hk : k < 4 := by unfold byteKey at hhigh; omega
  rw [Nat.add_sub_cancel_left]
  exact Memory.readByte_writeWord_same s.mem pa.toNat v k hk hwf

/-- Settles O31: the frame of a store that completes, and what its write does to memory and to the devices. -/
theorem storeWordWritesOnlyItsWord : Obligations.StoreWordWritesOnlyItsWord := by
  intro rd rs offset s ea m pa inWord hp
  obtain ⟨hregs, hcounted, hstatus, hpc⟩ := complete_physWrite_afterTableRead_frame ea pa (s.reg rd) s
  obtain ⟨_, _, _, _, mir, mcount, mticks, mmem, mcfg, _, _, _, mcompleted, msent⟩ := afterTableRead_frame ea s
  obtain ⟨_, _, _, _, nir, ncount, nticks, ncfg, ncompleted, nsent, habus, hwrite, hdbus⟩ := physWrite_frame pa (s.reg rd) m
  obtain ⟨hanswered, hunmapped⟩ := physWrite_devices pa (s.reg rd) m
  rw [mcfg] at hanswered hunmapped
  refine ⟨_, exec_sw_permitted hp, hregs, hcounted, hpc, hstatus, ⟨nir.trans mir, ncount.trans mcount, nticks.trans mticks,
    ncompleted.trans mcompleted, nsent.trans msent, ncfg.trans mcfg⟩, fun key hkey => ?_, fun hwf key hkey => ?_,
    hanswered, hunmapped, habus, hwrite, hdbus⟩
  · exact (physWrite_readByte_other (s.reg rd) m hkey).trans (congrArg (Memory.readByte · key) mmem)
  · exact physWrite_readByte_same (s.reg rd) m (mmem ▸ hwf) hkey

/-- Settles O32: the table read is all that happens. -/
theorem refusedLoadsAndStoresRaiseGpf : Obligations.RefusedLoadsAndStoresRaiseGpf := fun rd _ _ s hp =>
  ⟨⟨_, exec_lw_refused rd hp, refusedAccess_raise _ s hp⟩, ⟨_, exec_sw_refused rd hp, refusedAccess_raise _ s hp⟩⟩

end Sys2Proof.Machine
end

section
/-! SUPPORT. Control transfer and the loads of constants (R196, R200 to R206, R213). -/

namespace Sys2Proof.Machine

/-- A jump changes `pc` and the count, and nothing else (R200). -/
theorem transfersTo_jumpTo (target : Addr) (s : State) : TransfersTo target s (jumpTo target s) :=
  ⟨rfl, fun _ => rfl, jumpTo_sreg target s, rfl, sameBoard_jumpTo target s⟩

/-- A jump after the link writes `x[15]` besides (R203, R204). -/
theorem linksAndTransfersTo_jumpTo_link (target : Addr) (s : State) : LinksAndTransfersTo target s (jumpTo target s.link) :=
  ⟨rfl, fun r => State.reg_setReg s linkReg r _, jumpTo_sreg target s.link, rfl,
    (sameBoard_link s).trans (sameBoard_jumpTo target s.link)⟩

/-- A word reduced to an address, as a number (R9). -/
theorem a20_value (v : Word) : a20 v = BitVec.ofNat 20 v.toNat := (BitVec.ofNat_toNat 20 v).symm

/-- An address extended to a word, as a number (R9). -/
theorem zext20_value (a : Addr) : zext20 a = BitVec.ofNat 32 a.toNat := (BitVec.ofNat_toNat 32 a).symm

/-- The bits of a sign extension are shifted out by 16, so that `lhi` loads the immediate times 2^16 (R196). -/
theorem sext16_shiftLeft_value (imm : BitVec 16) : sext16 imm <<< 16 = BitVec.ofNat 32 (imm.toNat * 65536) := by
  have hextension : sext16 imm <<< 16 = zext16 imm <<< 16 := by
    apply word_ext
    intro i hi
    simp only [sext16, zext16, BitVec.getLsbD_shiftLeft, BitVec.getLsbD_signExtend, BitVec.getLsbD_setWidth]
    by_cases h : i < 16
    · simp [h]
    · simp [show i - 16 < 16 by omega]
  rw [hextension, shiftLeft_value, toNat_zext16]
  rfl

/-- Settles O33: `la` writes its address; `lhi` ends in the ALU's shift by 16. -/
theorem loadConstants : Obligations.LoadConstants := by
  intro rd address imm s
  refine ⟨⟨_, rfl, ?_⟩, executesTo_of_result rfl ?_⟩
  · rw [← zext20_value]
    exact writesRegister_setReg_complete rd _ s
  · exact congrArg some (sext16_shiftLeft_value imm)

/-- Settles O34: both are a jump. -/
theorem jumpsSetPc : Obligations.JumpsSetPc := fun target rs s =>
  ⟨⟨_, rfl, transfersTo_jumpTo target s⟩, ⟨_, rfl, a20_value (s.reg rs) ▸ transfersTo_jumpTo _ s⟩⟩

/-- Settles O35: both are a jump after the link, `jalr` with the target it read before. -/
theorem linkingJumpsSaveTheReturnAddress : Obligations.LinkingJumpsSaveTheReturnAddress := fun target rs s =>
  ⟨⟨_, rfl, linksAndTransfersTo_jumpTo_link target s⟩,
    ⟨_, rfl, a20_value (s.reg rs) ▸ linksAndTransfersTo_jumpTo_link _ s⟩⟩

/-- Settles O36: a branch is a jump to its target or to where `pc` already is. -/
theorem branchesTestARegister : Obligations.BranchesTestARegister := by
  intro rs offset s taken
  have htaken : branchTarget offset s = taken := branchTarget_value offset s
  refine ⟨⟨_, rfl, ?_⟩, ⟨_, rfl, ?_⟩⟩
  · simp only [branchIf_cases, htaken, beq_iff_eq]
    exact transfersTo_jumpTo _ s
  · simp only [branchIf_cases, htaken, bne_iff_ne, ne_eq, ite_not]
    exact transfersTo_jumpTo _ s

end Sys2Proof.Machine
end

section
/-! SUPPORT. The ALU instructions (R130 to R196): what each function computes, as the numbers of the spec. -/

namespace Sys2Proof.Machine

/-! ### Results as numbers -/

/-- The immediate, zero-extended, is its number (R9). -/
theorem zext16_value (imm : BitVec 16) : zext16 imm = BitVec.ofNat 32 imm.toNat := (BitVec.ofNat_toNat 32 imm).symm

/-- A sum of words is the sum of their numbers modulo 2^32 (R138). -/
theorem add_value (a b : Word) : a + b = BitVec.ofNat 32 (a.toNat + b.toNat) := by
  rw [BitVec.ofNat_add, BitVec.ofNat_toNat, BitVec.ofNat_toNat, BitVec.setWidth_eq, BitVec.setWidth_eq]

/-- A difference of words is the difference of their numbers modulo 2^32 (R142). -/
theorem sub_value (a b : Word) : a - b = BitVec.ofInt 32 (a.toNat - b.toNat) := by
  apply BitVec.eq_of_toNat_eq
  rw [BitVec.toNat_sub, BitVec.toNat_ofInt]
  omega

/-- A product of words is the product of their numbers modulo 2^32 (R146). -/
theorem mul_value (a b : Word) : a * b = BitVec.ofNat 32 (a.toNat * b.toNat) := by
  rw [BitVec.ofNat_mul, BitVec.ofNat_toNat, BitVec.ofNat_toNat, BitVec.setWidth_eq, BitVec.setWidth_eq]

/-- The quotient truncated toward zero is the quotient of the magnitudes with the sign of the product (R148). -/
theorem tdiv_eq_sign_mul (a d : Int) : a.tdiv d = a.sign * d.sign * (a.natAbs / d.natAbs : Nat) := by
  obtain ⟨m, rfl | rfl⟩ := Int.eq_nat_or_neg a <;> obtain ⟨n, rfl | rfl⟩ := Int.eq_nat_or_neg d <;>
    rcases m.eq_zero_or_pos with rfl | hm <;> rcases n.eq_zero_or_pos with rfl | hn <;>
    simp [Int.sign_natCast_of_ne_zero, *, Nat.ne_of_gt]

/-- Signed division faults on a zero divisor and on -2^31 by -1 (R148, R152). -/
theorem signedDivisionFaults_iff (a b : Word) :
    signedDivisionFaults a b = true ↔ b.toInt = 0 ∨ (a.toInt = -2 ^ 31 ∧ b.toInt = -1) := by
  have hzero : b = 0#32 ↔ b.toInt = 0 := BitVec.toInt_inj.symm
  have hone : b = 0xFFFFFFFF#32 ↔ b.toInt = -1 := BitVec.toInt_inj.symm
  have hmin : a = 0x80000000#32 ↔ a.toInt = -2 ^ 31 := BitVec.toInt_inj.symm
  simp only [signedDivisionFaults, Bool.or_eq_true, Bool.and_eq_true, beq_iff_eq, hzero, hone, hmin]

/-- The zero divisor is the one whose number is 0 (R150, R154). -/
theorem eq_zero_iff_toNat (b : Word) : b = 0#32 ↔ b.toNat = 0 := BitVec.toNat_inj.symm

/-! ### What an instruction with a result does, by what its operation returns -/

/-- An operation that ends in an exact signed result writes it, or faults outside the range (R134). -/
theorem resultOrArith_of_signedResult {i : Instr} {rd : Reg} {s : State} {r : Int}
    (he : exec i s = .next (writeResult rd (signedResult r) s)) :
    ResultOrArith i rd (r < -2 ^ 31 ∨ 2 ^ 31 - 1 < r) (BitVec.ofInt 32 r) s :=
  resultOrArith_of_writeResult he (fun h => signedResult_inside (by omega)) signedResult_outside

/-- A division that faults where the spec says (R148 to R154). -/
theorem resultOrArith_of_ite {i : Instr} {rd : Reg} {s : State} {c faults : Prop} [Decidable c] {v : Word}
    (he : exec i s = .next (writeResult rd (if c then none else some v) s)) (hc : c ↔ faults) :
    ResultOrArith i rd faults v s :=
  resultOrArith_of_writeResult he (fun h => if_neg (hc.not.mpr h)) (fun h => if_pos (hc.mpr h))

/-- A comparison writes 1 or 0 as it holds or not (R170). -/
theorem executesTo_of_test {i : Instr} {rd : Reg} {s : State} {b : Bool} {p : Prop}
    (he : exec i s = .next (writeResult rd (some (testResult b)) s)) (hb : b = true ↔ p) :
    (p → ExecutesTo i s (WritesRegister rd 1#32)) ∧ (¬ p → ExecutesTo i s (WritesRegister rd 0#32)) := by
  refine ⟨fun h => executesTo_of_result he ?_, fun h => executesTo_of_result he ?_⟩
  · rw [hb.mpr h]; rfl
  · rw [Bool.eq_false_iff.mpr (hb.not.mpr h)]; rfl

/-! ### Arithmetic -/

/-- Settles O37: the immediate forms see the immediate's signed value. -/
theorem signedAddAndSubtract : Obligations.SignedAddAndSubtract := by
  intro rd rs rt imm s outside a b c
  have hc : c = (sext16 imm).toInt := (toInt_sext16 imm).symm
  rw [hc]
  exact ⟨resultOrArith_of_signedResult rfl, resultOrArith_of_signedResult rfl, resultOrArith_of_signedResult rfl,
    resultOrArith_of_signedResult rfl⟩

/-- Settles O38, as O37. -/
theorem signedMultiply : Obligations.SignedMultiply := by
  intro rd rs rt imm s outside a b c
  have hc : c = (sext16 imm).toInt := (toInt_sext16 imm).symm
  rw [hc]
  exact ⟨resultOrArith_of_signedResult rfl, resultOrArith_of_signedResult rfl⟩

/-- Settles O39: each result is the word operation's, and no operation of these faults. -/
theorem unsignedAddSubtractMultiply : Obligations.UnsignedAddSubtractMultiply := by
  intro rd rs rt imm s a b c
  have hc : c = (zext16 imm).toNat := (toNat_zext16 imm).symm
  rw [hc]
  simp only [a, b, ← add_value, ← sub_value, ← mul_value]
  exact ⟨executesTo_of_result rfl rfl, executesTo_of_result rfl rfl, executesTo_of_result rfl rfl,
    executesTo_of_result rfl rfl, executesTo_of_result rfl rfl, executesTo_of_result rfl rfl⟩

/-- Settles O40: the quotient is the truncated one, and the faults are those of signed division. -/
theorem signedDivideAndRemainder : Obligations.SignedDivideAndRemainder := by
  intro rd rs rt imm s a b c faults q
  have hc : c = (sext16 imm).toInt := (toInt_sext16 imm).symm
  have hq : ∀ d, q d = a.tdiv d := fun d => (tdiv_eq_sign_mul a d).symm
  rw [hc, hq, hq]
  exact ⟨resultOrArith_of_ite rfl (signedDivisionFaults_iff _ _), resultOrArith_of_ite rfl (signedDivisionFaults_iff _ _),
    resultOrArith_of_ite rfl (signedDivisionFaults_iff _ _), resultOrArith_of_ite rfl (signedDivisionFaults_iff _ _)⟩

/-- Settles O41: only a zero divisor faults. -/
theorem unsignedDivideAndRemainder : Obligations.UnsignedDivideAndRemainder := by
  intro rd rs rt imm s a b c
  have hc : c = (zext16 imm).toNat := (toNat_zext16 imm).symm
  rw [hc]
  exact ⟨resultOrArith_of_ite rfl (eq_zero_iff_toNat _), resultOrArith_of_ite rfl (eq_zero_iff_toNat _),
    resultOrArith_of_ite rfl (eq_zero_iff_toNat _), resultOrArith_of_ite rfl (eq_zero_iff_toNat _)⟩

/-! ### Shifts and logic -/

/-- Settles O42: every shift takes its count from the low five bits, and shifting is multiplying or dividing. -/
theorem shiftsUseFiveBits : Obligations.ShiftsUseFiveBits := by
  intro rd rs rt imm s a b c
  have hb : b = shiftCount (s.reg rt) := (shiftCount_value _).symm
  have hc : c = shiftCount (sext16 imm) := (shiftCount_sext16 imm).symm
  rw [hb, hc]
  simp only [a, ← shiftLeft_value, ← shiftRight_value, ← sshiftRight_value]
  exact ⟨executesTo_of_result rfl rfl, executesTo_of_result rfl rfl, executesTo_of_result rfl rfl,
    executesTo_of_result rfl rfl, executesTo_of_result rfl rfl, executesTo_of_result rfl rfl⟩

/-- Settles O43: the codes of these functions are odd, so their immediates are zero-extended. -/
theorem logicZeroExtendsItsImmediate : Obligations.LogicZeroExtendsItsImmediate := by
  intro rd rs rt imm s a b c
  have hc : c = zext16 imm := (zext16_value imm).symm
  rw [hc]
  exact ⟨executesTo_of_result rfl rfl, executesTo_of_result rfl rfl, executesTo_of_result rfl rfl,
    executesTo_of_result rfl rfl, executesTo_of_result rfl rfl, executesTo_of_result rfl rfl⟩

/-! ### Comparisons -/

/-- Settles O44: each is a test of its relation on the operands, the immediate extended by its signedness. -/
theorem orderComparisons : Obligations.OrderComparisons := by
  intro rd rs rt imm s a b c ua ub uc yields
  have hc : c = (sext16 imm).toInt := (toInt_sext16 imm).symm
  have huc : uc = (zext16 imm).toNat := (toNat_zext16 imm).symm
  rw [hc, huc]
  refine ⟨⟨?_, ?_, ?_, ?_, ?_, ?_, ?_, ?_⟩, ?_, ?_, ?_, ?_, ?_, ?_, ?_, ?_⟩ <;> exact executesTo_of_test rfl decide_eq_true_iff

/-- Settles O45: an extended immediate equals a word when their values agree. -/
theorem equalityComparisons : Obligations.EqualityComparisons := by
  intro rd rs rt imm s yields
  have hint : (s.reg rs).toInt = imm.toInt ↔ s.reg rs = sext16 imm := by rw [← toInt_sext16, BitVec.toInt_inj]
  have hnat : (s.reg rs).toNat = imm.toNat ↔ s.reg rs = zext16 imm := by rw [← toNat_zext16, BitVec.toNat_inj]
  simp only [ne_eq, hint, hnat]
  exact ⟨executesTo_of_test rfl beq_iff_eq, executesTo_of_test rfl beq_iff_eq, executesTo_of_test rfl bne_iff_ne,
    executesTo_of_test rfl bne_iff_ne, executesTo_of_test rfl beq_iff_eq, executesTo_of_test rfl beq_iff_eq,
    executesTo_of_test rfl bne_iff_ne, executesTo_of_test rfl bne_iff_ne⟩

end Sys2Proof.Machine
end

section
/-! SUPPORT. The devices (R255 to R286): the timer over many ticks, a store to each device by its offset, the serial port's
clock step, what the host does to the devices. -/

namespace Sys2Proof.Machine

/-! ### The timer -/

/-- A tick before the end of the prescaler's period only counts it (R257). -/
theorem Timer.tick_of_lt {div : Nat} {t : Timer} (h : t.prescale + 1 < div) :
    Timer.tick div t = { t with prescale := t.prescale + 1 } := if_neg (by omega)

/-- The last tick of the prescaler's period takes the decrement step (R257). -/
theorem Timer.tick_of_le {div : Nat} {t : Timer} (h : div ≤ t.prescale + 1) :
    Timer.tick div t = Timer.decrement { t with prescale := 0 } := if_pos h

/-- From any phase of the prescaler, the rest of its period ends in one decrement step (R257). -/
theorem Timer.tick_iterate_period {div : Nat} (n : Nat) (t : Timer) (h : t.prescale + n + 1 = div) :
    (Timer.tick div)^[n + 1] t = Timer.decrement { t with prescale := 0 } := by
  induction n generalizing t with
  | zero => exact Timer.tick_of_le (by omega)
  | succ n ih => rw [Function.iterate_succ_apply, Timer.tick_of_lt (by omega), ih _ (by simp only; omega)]

/-- A decrement step does not touch the prescaler (R259). -/
theorem Timer.decrement_prescale (t : Timer) : t.decrement.prescale = t.prescale := by
  unfold Timer.decrement Timer.expire
  simp only
  split
  · split
    · split <;> rfl
    · rfl
  · rfl

/-- Whole periods of the prescaler, the first less its phase, are as many decrement steps (R257). -/
theorem Timer.tick_iterate_periods {div : Nat} (m : Nat) (t : Timer) (h : t.prescale < div) :
    (Timer.tick div)^[(m + 1) * div - t.prescale] t = Timer.decrement^[m + 1] { t with prescale := 0 } ∧
    (Timer.decrement^[m + 1] { t with prescale := 0 }).prescale = 0 := by
  induction m with
  | zero =>
    refine ⟨?_, Timer.decrement_prescale _⟩
    obtain ⟨n, hn⟩ : ∃ n, (0 + 1) * div - t.prescale = n + 1 := ⟨div - t.prescale - 1, by omega⟩
    rw [hn, Timer.tick_iterate_period n t (by omega)]
    rfl
  | succ m ih =>
    obtain ⟨hticks, hphase⟩ := ih
    have hsplit : (m + 1 + 1) * div - t.prescale = (div - 1 + 1) + ((m + 1) * div - t.prescale) := by
      rw [Nat.succ_mul (m + 1)]
      have : div ≤ (m + 1) * div := Nat.le_mul_of_pos_left div m.succ_pos
      omega
    rw [hsplit, Function.iterate_add_apply, hticks, Timer.tick_iterate_period (div - 1) _ (by omega),
      Function.iterate_succ_apply' _ (m + 1)]
    refine ⟨?_, (Timer.decrement_prescale _).trans hphase⟩
    generalize Timer.decrement^[m + 1] { t with prescale := 0 } = u at hphase ⊢
    rw [← hphase]

/-- While the count lasts, decrement steps of an enabled timer only count it down (R259, R260). -/
theorem Timer.decrement_iterate (m : Nat) (t : Timer) (henabled : t.control.getLsbD 0 = true) (hm : m ≤ t.count.toNat) :
    Timer.decrement^[m] t = { t with count := t.count - BitVec.ofNat 32 m } := by
  induction m with
  | zero => simp
  | succ m ih =>
    have hne : t.count - BitVec.ofNat 32 m ≠ 0#32 := by bv_omega
    have hcount : t.count - BitVec.ofNat 32 m - 1#32 = t.count - BitVec.ofNat 32 (m + 1) := by bv_omega
    rw [Function.iterate_succ_apply', ih (by omega), Timer.decrement, if_pos henabled, if_neg hne, hcount]

/-- The decrement step after the count has run out is the expiry (R259, R260). -/
theorem Timer.decrement_iterate_expire (t : Timer) (henabled : t.control.getLsbD 0 = true) :
    Timer.decrement^[t.count.toNat + 1] t = Timer.expire { t with count := 0#32 } := by
  have hzero : t.count - BitVec.ofNat 32 t.count.toNat = 0#32 := by
    rw [BitVec.ofNat_toNat, BitVec.setWidth_eq, BitVec.sub_self]
  rw [Function.iterate_succ_apply', Timer.decrement_iterate _ t henabled le_rfl, hzero, Timer.decrement, if_pos henabled,
    if_pos rfl]

/-- The expiry, word by word (R259, R261). -/
theorem Timer.expire_words (t : Timer) :
    t.expire.count = (if t.control.getLsbD 1 then t.load else t.count) ∧
    t.expire.control = (if t.control.getLsbD 1 then t.control else t.control &&& 0xFFFFFFFE#32) ∧
    t.expire.iack = (if t.iack.getLsbD 0 then t.iack ||| 3#32 else t.iack ||| 1#32) ∧
    t.expire.load = t.load ∧ t.expire.prescale = t.prescale := by
  unfold Timer.expire
  cases t.control.getLsbD 1 <;> cases t.iack.getLsbD 0 <;>
    exact ⟨rfl, rfl, by simp [BitVec.or_assoc], rfl, rfl⟩

/-- Settles O46: ticks are counted in periods of the prescaler, periods in decrement steps. -/
theorem timerExpiresAfterCountPlusOneSteps : Obligations.TimerExpiresAfterCountPlusOneSteps := by
  intro div t hphase henabled after
  have hafter : ∀ m, after (m + 1) = Timer.decrement^[m + 1] { t with prescale := 0 } := fun m =>
    (Timer.tick_iterate_periods m t hphase).1
  refine ⟨fun m h1 hm => ?_, ?_⟩
  · obtain ⟨m, rfl⟩ := Nat.exists_eq_add_of_le' h1
    rw [hafter, Timer.decrement_iterate (m + 1) { t with prescale := 0 } henabled hm]
    exact ⟨rfl, rfl, rfl, rfl, rfl⟩
  · rw [hafter, Timer.decrement_iterate_expire { t with prescale := 0 } henabled]
    exact Timer.expire_words { t with prescale := 0, count := 0#32 }

/-! ### Stores to the devices -/

/-- A write transaction with a device that answers is its strobed store (R71). -/
theorem physWrite_answered {pa : Addr} {d : Device} {o : Nat} (v : Word) {s : State}
    (h : answering s.cfg.parallelVariant pa.toNat = some (d, o)) :
    physWrite pa v s = (s.driveWrite pa v).deviceStore d o v := by
  unfold physWrite
  rw [h]

theorem answering_timer (v : ParallelVariant) {o : Nat} (ho : o < 4) : answering v (0x72000 + o) = some (.timer, o) := by
  rw [answering_eq]
  simp (disch := omega) only [if_neg, if_pos, Nat.add_sub_cancel_left]

theorem answering_serial1 (v : ParallelVariant) {o : Nat} (ho : o < 5) :
    answering v (0x70000 + o) = some (.serial .one, o) := by
  rw [answering_eq]
  simp (disch := omega) only [if_neg, if_pos, Nat.add_sub_cancel_left]

theorem answering_serial2 (v : ParallelVariant) {o : Nat} (ho : o < 5) :
    answering v (0x71000 + o) = some (.serial .two, o) := by
  rw [answering_eq]
  simp (disch := omega) only [if_neg, if_pos, Nat.add_sub_cancel_left]

theorem answering_parallel (v : ParallelVariant) {o : Nat} (ho : o < v.length) :
    answering v (0x73000 + o) = some (.parallel, o) := by
  rw [answering_eq]
  simp (disch := omega) only [if_neg, if_pos, Nat.add_sub_cancel_left]

/-- A store to a register of the timer (R258). -/
theorem physWrite_timer {o : Nat} (ho : o < 4) {pa : Addr} (hpa : pa.toNat = 0x72000 + o) (v : Word) (s : State) :
    physWrite pa v s = (s.driveWrite pa v).deviceStore .timer o v :=
  physWrite_answered v (hpa ▸ answering_timer _ ho)

/-- A store to a register of serial port 1 (R268). -/
theorem physWrite_serial1 {o : Nat} (ho : o < 5) {pa : Addr} (hpa : pa.toNat = 0x70000 + o) (v : Word) (s : State) :
    physWrite pa v s = (s.driveWrite pa v).deviceStore (.serial .one) o v :=
  physWrite_answered v (hpa ▸ answering_serial1 _ ho)

/-- A store to a register of serial port 2 (R268). -/
theorem physWrite_serial2 {o : Nat} (ho : o < 5) {pa : Addr} (hpa : pa.toNat = 0x71000 + o) (v : Word) (s : State) :
    physWrite pa v s = (s.driveWrite pa v).deviceStore (.serial .two) o v :=
  physWrite_answered v (hpa ▸ answering_serial2 _ ho)

/-- A store to a register the parallel controller has (R277, R284). -/
theorem physWrite_parallel {o : Nat} {pa : Addr} (hpa : pa.toNat = 0x73000 + o) (v : Word) {s : State}
    (ho : o < s.cfg.parallelVariant.length) :
    physWrite pa v s = (s.driveWrite pa v).deviceStore .parallel o v :=
  physWrite_answered v (hpa ▸ answering_parallel _ ho)

/-- A store to the timer's `control` copies `load` to `count` on a 0-to-1 change of the enable bit (R258). -/
theorem Timer.store_control (t : Timer) (v : Word) :
    t.store 0 v = { t with
      control := v
      count := if t.control.getLsbD 0 = false ∧ v.getLsbD 0 = true then t.load else t.count } := by
  show (if _ then _ else _) = _
  split <;> rfl

/-- Settles O47: each store is the timer's write rule at its offset. -/
theorem timerStoresCopyLoadOnlyOnEnable : Obligations.TimerStoresCopyLoadOnlyOnEnable := by
  intro v s
  refine ⟨?_, ?_, ?_, ?_⟩
  · have htimer := Timer.store_control s.timer v
    rw [physWrite_timer (o := 0) (by decide) rfl]
    exact ⟨(congrArg Timer.control htimer :), (congrArg Timer.count htimer :), (congrArg Timer.load htimer :),
      (congrArg Timer.iack htimer :), (congrArg Timer.prescale htimer :), fun _ => rfl, rfl, rfl, rfl, rfl⟩
  · rw [physWrite_timer (o := 1) (by decide) rfl]; rfl
  · rw [physWrite_timer (o := 2) (by decide) rfl]; rfl
  · rw [physWrite_timer (o := 3) (by decide) rfl]; rfl

/-- Settles O50, register by register. -/
theorem parallelStores : Obligations.ParallelStores := by
  intro o v s ho
  have hlength : s.cfg.parallelVariant.length ≤ 11 := by cases s.cfg.parallelVariant <;> decide
  have hpa : (BitVec.ofNat 20 (0x73000 + o)).toNat = 0x73000 + o := by
    rw [BitVec.toNat_ofNat, Nat.mod_eq_of_lt (by omega)]
  rw [physWrite_parallel hpa v ho]
  refine ⟨fun q hq => ?_, ?_, fun _ => rfl, rfl, rfl, rfl, rfl⟩
  · show ((s.parallel.store o v).word q) = _
    have : o < 11 := by omega
    interval_cases o <;> interval_cases q <;> rfl
  · show (s.parallel.store o v).displayChanged = _
    have : o < 11 := by omega
    interval_cases o <;> simp [Parallel.store]

/-! ### The serial ports -/

/-- `SymbolTicks` in the numbers of the control word (R273). -/
theorem symbolTicks_value (clockHz : Nat) (c : Word) :
    symbolTicks clockHz c =
      max 1 ((8 + c.toNat / 64 % 4 + c.toNat / 8 % 2 - (if c.toNat / 16 % 4 = 0 then 1 else 0)) * clockHz /
        (300 * 2 ^ (c.toNat % 8))) := by
  have hparity : c.extractLsb' 4 2 = 0#2 ↔ c.toNat / 16 % 4 = 0 := by
    rw [← BitVec.toNat_inj, BitVec.extractLsb'_toNat, Nat.shiftRight_eq_div_pow]
    rfl
  have hbits : symbolBits c = 8 + c.toNat / 64 % 4 + c.toNat / 8 % 2 - (if c.toNat / 16 % 4 = 0 then 1 else 0) := by
    simp only [symbolBits, hparity, BitVec.extractLsb'_toNat, Nat.shiftRight_eq_div_pow, Nat.reducePow]
    split <;> omega
  rw [symbolTicks, hbits, BitVec.extractLsb'_toNat]
  rfl

/-- The port is ready when no reception is in flight, the guard window has passed and data-ready is 0 (R288). -/
theorem Serial.ready_iff (p : Serial) :
    p.ready = true ↔ p.rxCountdown = 0 ∧ p.rxGuard = 0 ∧ p.status.getLsbD 0 = false := by
  simp [Serial.ready, and_assoc]

/-- Settles O49: each store is the port's write rule at its offset; the host's byte is accepted when the port is ready. -/
theorem serialTransfersStart : Obligations.SerialTransfersStart := by
  intro v b s symbol transmits
  have hsymbol : ∀ c, symbol c = symbolTicks s.cfg.clockHz c := fun c => (symbolTicks_value _ c).symm
  simp only [transmits, hsymbol]
  refine ⟨?_, ?_, ?_, ?_, ?_, ?_, fun port => ⟨fun h => ?_, fun h => ?_⟩⟩
  · rw [physWrite_serial1 (o := 0) (by decide) rfl]; rfl
  · rw [physWrite_serial1 (o := 0) (by decide) rfl]; rfl
  · rw [physWrite_serial2 (o := 0) (by decide) rfl]; rfl
  · rw [physWrite_serial2 (o := 0) (by decide) rfl]; rfl
  · rw [physWrite_serial1 (o := 1) (by decide) rfl, physWrite_serial1 (o := 2) (by decide) rfl,
      physWrite_serial1 (o := 3) (by decide) rfl, physWrite_serial1 (o := 4) (by decide) rfl]
    exact ⟨rfl, rfl, rfl, rfl, rfl, rfl, rfl, rfl⟩
  · rw [physWrite_serial2 (o := 1) (by decide) rfl, physWrite_serial2 (o := 2) (by decide) rfl,
      physWrite_serial2 (o := 3) (by decide) rfl, physWrite_serial2 (o := 4) (by decide) rfl]
    exact ⟨rfl, rfl, rfl, rfl, rfl, rfl, rfl, rfl⟩
  · rcases trySend_cases port b s with ⟨_, e⟩ | ⟨hr, _⟩
    · exact e
    · exact absurd ((Serial.ready_iff _).mpr h) (by rw [hr]; decide)
  · rcases trySend_cases port b s with ⟨hr, _⟩ | ⟨_, e⟩
    · exact absurd ((Serial.ready_iff _).mp hr) h
    · exact e

/-- The transmitter's half of the clock step, word by word (R276). -/
theorem Serial.tickTransmit_eq (p : Serial) :
    p.tickTransmit =
      ({ p with
          txCountdown := p.txCountdown - 1
          status := p.status ||| (if p.txCountdown = 1 then 2#32 else 0#32)
          iack := p.iack ||| (if p.txCountdown = 1 ∧ p.control.getLsbD 9 = true then 2#32 else 0#32) },
        if p.txCountdown = 1 then some (BitVec.ofNat 8 p.tx.toNat) else none) := by
  rcases p with ⟨tx, rx, control, status, iack, _ | _ | n, rxCountdown, rxPending, rxGuard⟩
  · simp [Serial.tickTransmit]
  · have hbyte : tx.extractLsb' 0 8 = BitVec.ofNat 8 tx.toNat := by
      rw [BitVec.ofNat_toNat, BitVec.setWidth_eq_extractLsb' (by decide)]
    by_cases h : control[9] = true <;> simp [Serial.tickTransmit, h, hbyte]
  · simp [Serial.tickTransmit]

/-- The receiver's half of the clock step, word by word (R276). -/
theorem Serial.tickReceive_eq (p : Serial) :
    p.tickReceive = { p with
      rxCountdown := p.rxCountdown - 1
      rx := if p.rxCountdown = 1 then BitVec.ofNat 32 p.rxPending.toNat else p.rx
      status := p.status ||| (if p.rxCountdown = 1 then 1#32 else 0#32)
      iack := p.iack ||| (if p.rxCountdown = 1 ∧ p.control.getLsbD 8 = true then 1#32 else 0#32) } := by
  rcases p with ⟨tx, rx, control, status, iack, txCountdown, _ | _ | n, rxPending, rxGuard⟩
  · simp [Serial.tickReceive]
  · by_cases h : control[8] = true <;> simp [Serial.tickReceive, h]
  · simp [Serial.tickReceive]

/-- Settles O48: the transmitter's half, the receiver's half and the guard window, one after the other. -/
theorem serialClockStep : Obligations.SerialClockStep := by
  refine ⟨fun p => ?_, fun c s => ⟨rfl, rfl, rfl, rfl⟩⟩
  simp only [Serial.tick, Serial.tickTransmit_eq, Serial.tickReceive_eq, Serial.tickGuard]
  simp

/-! ### The host's side -/

/-- Settles O51: a line of the IRQ bus follows its ack word (O13). -/
theorem buttonPressAndRelease : Obligations.ButtonPressAndRelease := by
  intro s
  have hpressed : s.button ||| 1#32 ≠ 0#32 := fun h => by
    have hbit := congrArg (BitVec.getLsbD · 0) h
    simp at hbit
  refine ⟨rfl, ?_, rfl, ?_, rfl, rfl⟩
  · rw [irqLinesFollowAckWords _ 1 (by decide)]
    simp [pressButton, hpressed]
  · rw [irqLinesFollowAckWords _ 1 (by decide)]
    simp [releaseButton]

/-- Settles O52: both only note the change besides. -/
theorem hostSetsSwitchesAndButtons : Obligations.HostSetsSwitchesAndButtons := by
  intro v s ack
  have hnote : ∀ p : Parallel, p.noteChange =
      { p with iack := if p.control.getLsbD 1 then p.iack ||| 1#32 else p.iack } := fun p => by
    unfold Parallel.noteChange
    split <;> rfl
  exact ⟨hnote _, hnote _, rfl, rfl⟩

end Sys2Proof.Machine
end

section
/-! SUPPORT. The tick (R315 to R325): one equation of `step` for each way a tick can go, and the effect of a fetch. -/

namespace Sys2Proof.Machine

/-- A tick in which the countdown runs (R320). -/
theorem step_of_counting {s : State} (h : 0 < s.countdown) :
    step s = .next (finishTick false (countDown (beginTick s))) := if_pos h

/-- A tick whose fetch is refused (R321). -/
theorem step_of_refused {s : State} (h0 : s.countdown = 0) (hp : accessPermitted (atFetch s).pc (atFetch s) = false) :
    step s = .next (finishTick true ((afterTableRead (atFetch s).pc (atFetch s)).raise gpfBit)) := by
  unfold step boardTick
  rw [if_neg (by omega), fetch_denied _ hp]

/-- A tick that fetches a word that selects no instruction (R225). -/
theorem step_of_undefined {s f : State} {e : Undefined} (h0 : s.countdown = 0) (hf : fetch (atFetch s) = .done () f)
    (hd : decode f.ir = .error e) : step s = .next (finishTick true (issueUndefined f)) := by
  unfold step boardTick
  rw [if_neg (by omega), hf]
  simp only [hd]

/-- A tick that issues an instruction (R322). -/
theorem step_of_decoded {s f u : State} {i : Instr} (h0 : s.countdown = 0) (hf : fetch (atFetch s) = .done () f)
    (hd : decode f.ir = .ok i) (hu : exec i (issueState i f) = .next u) : step s = .next (finishTick true u) := by
  unfold step boardTick
  rw [if_neg (by omega), hf]
  simp only [hd, hu]

/-- Settles O8: a tick counts, is refused its fetch, fetches a word that selects nothing, or runs an instruction, which always
ends in a next state. -/
theorem everyTickEndsInANextState : Obligations.EveryTickEndsInANextState := by
  intro s
  by_cases hc : 0 < s.countdown
  · exact ⟨_, step_of_counting hc⟩
  have h0 : s.countdown = 0 := Nat.eq_zero_of_not_pos hc
  cases hp : accessPermitted (atFetch s).pc (atFetch s) with
  | false => exact ⟨_, step_of_refused h0 hp⟩
  | true =>
    cases hd : decode (physRead (physicalAddress (atFetch s).pc (atFetch s)) (afterTableRead (atFetch s).pc (atFetch s))).1 with
    | error e => exact ⟨_, step_of_undefined h0 (fetch_permitted _ hp) hd⟩
    | ok i =>
      obtain ⟨u, hu⟩ := exec_next i _
      exact ⟨_, step_of_decoded h0 (fetch_permitted _ hp) hd hu⟩

/-- The whole effect of a fetch that succeeds: the latch holds the word on the bus, `pc` has moved past it, and nothing else
has changed but the buses and what the two reads touch (R79, R38, R72). -/
def FetchedFrom (b f : State) : Prop :=
  f.ir = (afterTableRead b.pc b).busWord (physicalAddress b.pc b).toNat ∧ f.pc = b.pc + 1#20 ∧ f.status = b.status ∧
  SameRegs b f ∧ SameSpecials b f ∧ SameMemory b f ∧
  ReadDevices (physicalAddress b.pc b) (afterTableRead b.pc b) f ∧
  DrivenByRead (physicalAddress b.pc b) ((afterTableRead b.pc b).busWord (physicalAddress b.pc b).toNat) f ∧
  f.ticks = b.ticks ∧ f.cfg = b.cfg ∧ f.completed = b.completed ∧ f.sent = b.sent

/-- A permitted fetch succeeds with its whole effect. -/
theorem exists_fetchedFrom {b : State} (hp : accessPermitted b.pc b = true) :
    ∃ f, fetch b = .done () f ∧ FetchedFrom b f := by
  refine ⟨_, fetch_permitted b hp, ?_⟩
  obtain ⟨hgpr, hspr, hstatus, _, hticks, hmem, hcfg, _, _, _, hcompleted, hsent, hpc, _⟩ :=
    fetch_frame b _ (fetch_permitted b hp)
  exact ⟨physRead_value _ _, hpc, hstatus, State.reg_congr hgpr, State.sreg_congr hspr,
    fun key => congrArg (Memory.readByte · key) hmem, (physRead_touches _ _).1, physRead_driven _ _, hticks, hcfg,
    hcompleted, hsent⟩

/-- The cost of an instruction looks at the parameters and the general registers only (R325). -/
theorem cost_congr (i : Instr) {s t : State} (hcfg : t.cfg = s.cfg) (hregs : SameRegs s t) : cost i t = cost i s := by
  have htaken : branchTaken i t = branchTaken i s := by
    unfold branchTaken
    split
    · rw [hregs]
    · rw [hregs]
    · rfl
  rw [cost, cost, hcfg, htaken]

/-- Settles O6: the step issues what it has fetched, at the cost of its class. -/
theorem stepRunsDecodedInstruction : Obligations.StepRunsDecodedInstruction := by
  intro s i b m pa w classTicks h0 hp hd
  obtain ⟨f, hf, hir, hpc, hstatus, hregs, hspecials, hmem, hdevices, hdriven, hticks, hcfg, hcompleted, hsent⟩ :=
    exists_fetchedFrom hp
  obtain ⟨u, hu⟩ := exec_next i (issueState i f)
  have hcost : cost i b = classTicks := by
    cases i
    case beqz rs offset => simp [cost, branchTaken, timingClass, TickCosts.of, classTicks]
    case bnez rs offset => simp [cost, branchTaken, timingClass, TickCosts.of, classTicks]
    all_goals rfl
  refine ⟨issueState i f, hir, hpc, ?_, hstatus, hregs, hspecials, hmem, hdevices, hdriven, hticks, hcfg, hcompleted, hsent,
    ?_⟩
  · rw [← hcost, ← cost_congr i hcfg hregs]
    rfl
  · rw [hu, step_of_decoded h0 hf (hir ▸ hd) hu]

/-- Settles O7. -/
theorem countingTickOnlyCounts : Obligations.CountingTickOnlyCounts := fun s h =>
  ⟨_, step_of_counting h, rfl, rfl, rfl, beginTick_sreg s, fun _ => rfl, rfl, rfl, rfl, rfl, ⟨rfl, rfl, rfl⟩, fun _ => rfl,
    rfl, rfl, rfl, rfl, rfl, rfl⟩

/-- Settles O9: after the fetch only GPF is raised, at the cost of a system instruction. -/
theorem undefinedWordRaisesGpf : Obligations.UndefinedWordRaisesGpf := by
  intro s e b m pa w h0 hp hd
  obtain ⟨f, hf, hir, hpc, hstatus, hregs, hspecials, hmem, hdevices, hdriven, hticks, hcfg, hcompleted, hsent⟩ :=
    exists_fetchedFrom hp
  have hir' : decode f.ir = .error e := by rw [hir]; exact hd
  exact ⟨_, step_of_undefined h0 hf hir', congrArg (· ||| gpfBit) hstatus, hir, hpc,
    congrArg (fun c : Config => c.ticks.system - 1) hcfg, hregs, hspecials, hmem, hdevices, hdriven, hticks, hcfg, hcompleted,
    hsent⟩

/-- Settles O10: the refused access is all that happens in the tick. -/
theorem refusedFetchRaisesGpf : Obligations.RefusedFetchRaisesGpf := by
  intro s b h0 hp
  obtain ⟨_, _, _, _, _, hcountdown, _⟩ := afterTableRead_frame b.pc b
  exact ⟨_, step_of_refused h0 hp, refusedAccess_raise b.pc b hp, hcountdown.trans ((atFetch_countdown s).trans h0)⟩

end Sys2Proof.Machine
end

section
/-! SUPPORT. The invariant of the machine (R7, R21, R40, R48, R61; log entries 1, 2, 5, 10, 22): each named operation keeps it,
and so do the tick and the host's actions. -/

namespace Sys2Proof.Machine

/-- Settles O57. -/
theorem resetMeetsTheInvariant : Obligations.ResetMeetsTheInvariant :=
  ⟨by decide, by decide, by decide, by decide, by decide, by decide⟩

/-! ### What the invariant looks at -/

/-- The invariant looks at the parameters, the general registers, memory, the accumulator, the address bus and the prescaler
only. -/
theorem State.Inv.congr {s t : State} (hs : s.Inv) (hcfg : t.cfg = s.cfg) (hgpr : t.gpr = s.gpr) (hmem : t.mem = s.mem)
    (hstatus : t.status = s.status) (habus : t.abus = s.abus) (hprescale : t.timer.prescale = s.timer.prescale) : t.Inv where
  cfgLegal := hcfg ▸ hs.cfgLegal
  zeroReg := hgpr ▸ hs.zeroReg
  memCanonical := hmem ▸ hs.memCanonical
  statusLow := hstatus ▸ hs.statusLow
  abusAddress := habus ▸ hs.abusAddress
  prescaleBelow := by rw [hcfg, hprescale]; exact hs.prescaleBelow

/-- The address bus driven with a 20-bit address holds one (R61). -/
theorem zext20_lt (pa : Addr) : (zext20 pa).toNat < 2 ^ 20 := by
  rw [zext20, BitVec.toNat_setWidth]
  exact (Nat.mod_le _ _).trans_lt pa.isLt

/-- A legal configuration divides the clock (R7). -/
theorem Config.timerDiv_pos {c : Config} (h : c.wf = true) : 0 < c.timerDiv := by
  simp only [Config.wf, Bool.and_eq_true, decide_eq_true_eq] at h
  obtain ⟨⟨_, hdiv⟩, _⟩ := h
  exact hdiv

/-- A read leaves all that the invariant looks at but the address bus, which it drives with an address (R70). -/
theorem State.Inv.of_driven {s t : State} (hs : s.Inv) {pa : Addr} (hcfg : t.cfg = s.cfg) (hgpr : t.gpr = s.gpr)
    (hmem : t.mem = s.mem) (hstatus : t.status = s.status) (habus : t.abus = zext20 pa) (htimer : t.timer = s.timer) : t.Inv :=
  have hdriven : State.Inv { s with abus := zext20 pa } := { hs with abusAddress := zext20_lt pa }
  hdriven.congr hcfg hgpr hmem hstatus habus (congrArg Timer.prescale htimer)

/-! ### The named operations -/

/-- A write of a general register never reaches slot 0 (R21). -/
theorem State.setReg_zero (r : Reg) (v : Word) (s : State) : (s.setReg r v).gpr[0] = s.gpr[0] := by
  by_cases hr : r = 0#4
  · simp [State.setReg, hr]
  · have hne : r.toNat ≠ 0 := fun e => hr (BitVec.eq_of_toNat_eq e)
    simp [State.setReg, hr, Vector.getElem_set_ne _ _ hne]

theorem State.Inv.setReg {s : State} (hs : s.Inv) (r : Reg) (v : Word) : (s.setReg r v).Inv :=
  { hs with zeroReg := (State.setReg_zero r v s).trans hs.zeroReg }

theorem State.Inv.setSreg {s : State} (hs : s.Inv) (k : SReg) (v : Word) : (s.setSreg k v).Inv := { hs with }

theorem State.Inv.setPc {s : State} (hs : s.Inv) (a : Addr) : State.Inv { s with pc := a } := { hs with }

theorem State.Inv.setSerial {s : State} (hs : s.Inv) (p : Port) (v : Serial) : (s.setSerial p v).Inv := { hs with }

theorem State.Inv.complete {s : State} (hs : s.Inv) : s.complete.Inv := hs.setSreg _ _

/-- A cause whose bit is above bit 3 leaves bits 3:0 of the accumulator 0 (R40). -/
theorem State.Inv.raise {s : State} (hs : s.Inv) {bit : BitVec 16} (hbit : bit &&& 0x000F#16 = 0#16) : (s.raise bit).Inv :=
  { hs with statusLow := by rw [State.raise, BitVec.and_or_distrib_right, hs.statusLow, hbit]; rfl }

theorem State.Inv.jumpTo {s : State} (hs : s.Inv) (a : Addr) : (jumpTo a s).Inv := (hs.setPc a).complete

theorem State.Inv.writeResult {s : State} (hs : s.Inv) (rd : Reg) (x : Option Word) : (writeResult rd x s).Inv := by
  cases x with
  | none => exact hs.raise (by decide)
  | some v => exact (hs.setReg rd v).complete

theorem State.Inv.returnFromException {s : State} (hs : s.Inv) : (returnFromException s).Inv :=
  ((hs.setSreg _ _).setReg _ _).setPc _

/-- The refresh writes bits 4 to 11 and keeps bits 12 to 15 (R236). -/
theorem State.Inv.refreshStatus {s : State} (hs : s.Inv) : s.refreshStatus.Inv :=
  { hs with
    statusLow := by
      refine BitVec.eq_of_getLsbD_eq fun n hn => ?_
      rw [BitVec.getLsbD_and, refreshStatus_status_bit s n hn]
      interval_cases n <;> simp }

theorem State.Inv.boundaryCheck {s : State} (hs : s.Inv) : (boundaryCheck s).Inv := by
  rcases boundaryCheck_cases s with ⟨_, hnone⟩ | ⟨_, hentry⟩
  · rw [hnone]
    exact hs.refreshStatus
  · rw [hentry]
    exact { hs with statusLow := BitVec.zero_and }

theorem State.Inv.atFetch {s : State} (hs : s.Inv) : (atFetch s).Inv :=
  State.Inv.boundaryCheck (s := beginTick s) { hs with }

theorem State.Inv.physRead {s : State} (hs : s.Inv) (pa : Addr) : (physRead pa s).2.Inv := by
  obtain ⟨hgpr, _, _, hstatus, _, _, _, hmem, hcfg, htimer, _, _, _, _, habus, _⟩ := physRead_frame pa s
  exact hs.of_driven hcfg hgpr hmem hstatus habus htimer

theorem State.Inv.afterTableRead {s : State} (hs : s.Inv) (la : Addr) : (afterTableRead la s).Inv := by
  rcases afterTableRead_cases la s with ⟨_, h⟩ | ⟨_, h⟩
  · rwa [h]
  · rw [h]
    exact hs.physRead _

/-- A store to the timer leaves its prescaler alone (R258). -/
theorem Timer.store_prescale (t : Timer) (o : Nat) (v : Word) : (t.store o v).prescale = t.prescale := by
  unfold Timer.store
  split
  · split <;> rfl
  all_goals rfl

/-- An address RAM answers is its own offset in RAM (R65). -/
theorem lt_of_answering_ram {v : ParallelVariant} {a o : Nat} (h : answering v a = some (.ram, o)) : o < ramLength := by
  obtain ⟨_, ho⟩ : a = o ∧ o < ramLength := by simpa using answering_cases h
  exact ho

/-- A strobed store keeps the invariant; RAM takes it at an offset of its own (R71). -/
theorem State.Inv.deviceStore {s : State} (hs : s.Inv) {d : Device} {o : Nat} (v : Word) (hram : d = .ram → o < ramLength) :
    (s.deviceStore d o v).Inv := by
  cases d with
  | ram => exact { hs with memCanonical := Memory.wf_writeWord s.mem o v hs.memCanonical (.inl (hram rfl)) }
  | timer => exact hs.congr rfl rfl rfl rfl rfl (Timer.store_prescale s.timer o v)
  | rom | serial | parallel | button => exact { hs with }

theorem State.Inv.driveWrite {s : State} (hs : s.Inv) (pa : Addr) (v : Word) : (s.driveWrite pa v).Inv :=
  { hs with abusAddress := zext20_lt pa }

theorem State.Inv.physWrite {s : State} (hs : s.Inv) (pa : Addr) (v : Word) : (physWrite pa v s).Inv := by
  unfold Machine.physWrite
  split
  · next d o h => exact (hs.driveWrite pa v).deviceStore v fun hd => lt_of_answering_ram (hd ▸ h)
  · exact hs.driveWrite pa v

theorem State.Inv.fetch {s t : State} (hs : s.Inv) (h : fetch s = .done () t) : t.Inv := by
  obtain ⟨hgpr, _, hstatus, _, _, hmem, hcfg, htimer, _, _, _, _, _, habus, _⟩ := fetch_frame s t h
  exact hs.of_driven hcfg hgpr hmem hstatus habus htimer

/-! ### Instructions and ticks -/

/-- Every instruction keeps the invariant. -/
theorem State.Inv.exec {s t : State} (hs : s.Inv) {i : Instr} (h : exec i s = .next t) : t.Inv := by
  refine exec_preserves (R := fun _ t => t.Inv) i s t h (fun rd x => hs.writeResult rd x) (fun rd v => (hs.setReg rd v).complete)
    hs.jumpTo (fun a => (hs.setReg _ _).jumpTo a) (fun rd rs offset t h => ?_) (fun rd rs offset t h => ?_) (fun b hb => ?_)
    (fun t h => ?_) (fun k v _ => (hs.setSreg k v).complete) (hs.raise (by decide))
  · rcases exec_lw rd rs offset s with ⟨_, hexec⟩ | ⟨_, hexec⟩ <;> obtain rfl := Host.Outcome.next.inj (hexec.symm.trans h)
    · exact (((hs.afterTableRead _).physRead _).setReg _ _).complete
    · exact (hs.afterTableRead _).raise (by decide)
  · rcases exec_sw rd rs offset s with ⟨_, hexec⟩ | ⟨_, hexec⟩ <;> obtain rfl := Host.Outcome.next.inj (hexec.symm.trans h)
    · exact ((hs.afterTableRead _).physWrite _ _).complete
    · exact (hs.afterTableRead _).raise (by decide)
  · rcases hb with rfl | rfl <;> exact (hs.raise (by decide)).complete
  · rcases exec_rfe s with ⟨_, hexec⟩ | ⟨_, hexec⟩ <;> obtain rfl := Host.Outcome.next.inj (hexec.symm.trans h)
    · exact hs.returnFromException.complete
    · exact hs.raise (by decide)

/-- A clock step of the timer keeps its prescaler below the divisor (R48, R257). -/
theorem Timer.tick_prescale_lt {div : Nat} (hdiv : 0 < div) (t : Timer) : (Timer.tick div t).prescale < div := by
  by_cases h : div ≤ t.prescale + 1
  · rw [Timer.tick_of_le h, Timer.decrement_prescale]
    exact hdiv
  · rw [Timer.tick_of_lt (Nat.lt_of_not_le h)]
    exact Nat.lt_of_not_le h

theorem State.Inv.finishTick {s : State} (hs : s.Inv) (completed : Bool) : (finishTick completed s).Inv :=
  { hs with prescaleBelow := Timer.tick_prescale_lt (Config.timerDiv_pos hs.cfgLegal) s.timer }

/-- Settles O58: each of the four ways a tick can go is made of operations that keep the invariant. -/
theorem everyStepKeepsTheInvariant : Obligations.EveryStepKeepsTheInvariant := by
  intro s t hs h
  rcases step_cases s t h with ⟨_, _, rfl⟩ | ⟨_, _, _, rfl⟩ | ⟨f, _, _, hf, rfl⟩ | ⟨i, f, u, _, _, hf, hu, rfl⟩
  · exact State.Inv.finishTick (s := countDown (beginTick s)) { hs with } false
  · exact ((hs.atFetch.afterTableRead _).raise (by decide)).finishTick true
  · have hissued : (issueUndefined f).Inv := State.Inv.raise (s := f.occupy _) { hs.atFetch.fetch hf with } (by decide)
    exact hissued.finishTick true
  · have hissued : (issueState i f).Inv := { hs.atFetch.fetch hf with }
    exact (hissued.exec hu).finishTick true

/-! ### The host's actions -/

/-- An offset at which ROM answers is one of ROM's (R65). -/
theorem lt_of_answering_rom {v : ParallelVariant} {a o : Nat} (h : answering v a = some (.rom, o)) : o < romLength := by
  obtain ⟨_, ho⟩ : a = romBase + o ∧ o < romLength := by simpa using answering_cases h
  exact ho

/-- A word the loader writes goes to ROM's memory or to a device as from the bus (R310). -/
theorem State.Inv.loaderWrite {s : State} (hs : s.Inv) (a : Nat) (v : Word) : (loaderWrite a v s).Inv := by
  unfold Machine.loaderWrite
  split
  · next o h =>
    have ho : o < romLength := lt_of_answering_rom h
    exact { hs with memCanonical := Memory.wf_writeWord s.mem _ v hs.memCanonical (.inr (by omega)) }
  · next d o _ h => exact hs.deviceStore v fun hd => lt_of_answering_ram (hd ▸ h)
  · exact hs

theorem State.Inv.loaderWrites (ws : List Word) (a : Nat) {s : State} (hs : s.Inv) : (loaderWrites a ws s).Inv := by
  induction ws generalizing a s with
  | nil => exact hs
  | cons w ws ih => exact ih (a + 1) (hs.loaderWrite a w)

theorem State.Inv.applyRecord {s : State} (hs : s.Inv) (r : Record) : (applyRecord r s).2.Inv := by
  unfold Machine.applyRecord
  split
  · split
    · exact hs.loaderWrites _ _
    · exact hs
  · split
    · exact hs.setPc _
    · exact hs

theorem State.Inv.loadSrec {s : State} (hs : s.Inv) (text : List Char) : (loadSrec text s).state.Inv :=
  { loadLines_preserves (fun r _ h => h.applyRecord r) (splitLines text) 0 s hs with abusAddress := zext20_lt _ }

theorem State.Inv.boardReset {s : State} (hs : s.Inv) (keepMemory : Bool) : (boardReset keepMemory s).Inv where
  cfgLegal := hs.cfgLegal
  zeroReg := resetGpr_getElem s.cfg.resetFill 0#4
  memCanonical := by
    cases keepMemory
    · exact Memory.wf_clearRam s.mem hs.memCanonical
    · exact hs.memCanonical
  statusLow := BitVec.zero_and
  abusAddress := Nat.two_pow_pos 20
  prescaleBelow := Config.timerDiv_pos hs.cfgLegal

/-- Settles O59: an action of each kind. -/
theorem hostActionsKeepTheInvariant : Obligations.HostActionsKeepTheInvariant := by
  intro a s hs
  cases a with
  | reset keepMemory => exact hs.boardReset keepMemory
  | load text => exact hs.loadSrec text
  | trySend p b =>
    rcases trySend_cases p b s with ⟨_, h⟩ | ⟨_, h⟩ <;> rw [hostAct, h]
    · exact hs.setSerial _ _
    · exact hs
  | disassemble a => exact hs.of_driven rfl rfl rfl rfl rfl rfl
  | press | release | setSwitches | setButtons | clearDisplayChanged => exact { hs with }

/-! ### Isolation -/

/-- Memory is as before, or as a store left it whose logical address the MPU permits (R71, R212). -/
def KeptOrStored (s t : State) : Prop :=
  t.mem = s.mem ∨
  ∃ la v, accessPermitted la s = true ∧ t.mem = (physWrite (physicalAddress la s) v (afterTableRead la s)).mem

/-- Only a permitted `sw` changes memory (R212). -/
theorem exec_keptOrStored {i : Instr} {s t : State} (h : exec i s = .next t) : KeptOrStored s t := by
  refine exec_preserves i s t h (fun rd x => .inl ?_) (fun _ _ => .inl rfl) (fun _ => .inl rfl) (fun _ => .inl rfl)
    (fun rd rs offset t h => .inl ?_) (fun rd rs offset t h => ?_) (fun _ _ => .inl rfl) (fun t h => .inl ?_)
    (fun _ _ _ => .inl rfl) (.inl rfl)
  · cases x <;> rfl
  · rcases exec_lw rd rs offset s with ⟨_, hexec⟩ | ⟨_, hexec⟩ <;> obtain rfl := Host.Outcome.next.inj (hexec.symm.trans h)
    · simp [physRead_frame, afterTableRead_frame]
    · simp [afterTableRead_frame]
  · rcases exec_sw rd rs offset s with ⟨hp, hexec⟩ | ⟨_, hexec⟩ <;> obtain rfl := Host.Outcome.next.inj (hexec.symm.trans h)
    · exact .inr ⟨_, _, hp, rfl⟩
    · exact .inl (by simp [afterTableRead_frame])
  · rcases exec_rfe s with ⟨_, hexec⟩ | ⟨_, hexec⟩ <;> obtain rfl := Host.Outcome.next.inj (hexec.symm.trans h) <;> rfl

/-- The permission of a page whose table word lies in memory looks at memory, the parameters and the table's base only
(R76). -/
theorem pagePermitted_congr {pa : Addr} {s t : State} (htable : tableInMemory pa s = true) (hmem : t.mem = s.mem)
    (hcfg : t.cfg = s.cfg) (hspr : t.spr = s.spr) : pagePermitted pa t = pagePermitted pa s := by
  have haddress : tableAddress pa t = tableAddress pa s := by rw [tableAddress, tableAddress, State.sreg_congr hspr]
  have hword : t.busWord (tableAddress pa s).toNat = s.busWord (tableAddress pa s).toNat := by
    unfold tableInMemory at htable
    unfold State.busWord
    rw [hcfg]
    split at htable
    · next h => simp only [h, State.deviceWord, hmem]
    · next h => simp only [h, State.deviceWord, hmem]
    · exact absurd htable Bool.false_ne_true
  rw [pagePermitted, pagePermitted, haddress, hword]

/-- An instruction issued in user mode leaves a word whose page is forbidden as the fetch found it (R75 to R78, R212). -/
theorem issued_mem_user {b f u : State} {i : Instr} (hk : b.kernelMode = false) (hf : fetch b = .done () f)
    (hu : exec i (issueState i f) = .next u) {pa : Addr} (htable : tableInMemory pa b = true)
    (hforbidden : pagePermitted pa b = false) : u.mem.readWord pa.toNat = b.mem.readWord pa.toNat := by
  obtain ⟨_, hspr, _, _, _, hmem, hcfg, _⟩ := fetch_frame b f hf
  rcases exec_keptOrStored hu with hsame | ⟨la, v, hp, hstored⟩
  · rw [hsame, ← hmem]
    rfl
  have huser : (issueState i f).kernelMode = false :=
    (kernelMode_congr (State.sreg_congr (s := b) (t := issueState i f) hspr cctrlSlot)).trans hk
  have hphysical : physicalAddress la (issueState i f) = relocate la (issueState i f) := by simp [physicalAddress, huser]
  have hpermitted : pagePermitted (relocate la (issueState i f)) (issueState i f) = true := by
    simpa [accessPermitted, huser] using hp
  have hne : pa ≠ relocate la (issueState i f) := by
    intro heq
    rw [← heq, pagePermitted_congr (t := issueState i f) htable hmem hcfg hspr, hforbidden] at hpermitted
    exact Bool.false_ne_true hpermitted
  obtain ⟨_, _, _, _, _, _, _, hread, _⟩ := afterTableRead_frame la (issueState i f)
  have hbefore : (afterTableRead la (issueState i f)).mem = b.mem := hread.trans hmem
  rw [hstored, hphysical, physWrite_mem, hbefore]
  split
  · exact Memory.readWord_writeWord_other _ _ _ _ fun e => hne (BitVec.eq_of_toNat_eq e)
  · rfl

/-- Settles O60: only an issued `sw` writes memory, and it is checked against the table the statement speaks of. -/
theorem userModeNeverStoresToAForbiddenPage : Obligations.UserModeNeverStoresToAForbiddenPage := by
  intro s t h0 hk h pa htable hforbidden
  obtain ⟨_, _, _, _, _, _, _, _, hmem, _⟩ := boundaryCheck_frame (beginTick s)
  have hfetch : (atFetch s).mem = s.mem := hmem
  rw [← hfetch]
  rcases step_cases s t h with ⟨hc, _⟩ | ⟨_, _, _, rfl⟩ | ⟨f, _, _, hf, rfl⟩ | ⟨i, f, u, _, _, hf, hu, rfl⟩
  · omega
  · obtain ⟨_, _, _, _, _, _, _, hread, _⟩ := afterTableRead_frame (atFetch s).pc (atFetch s)
    exact congrArg (Memory.readWord · pa.toNat) hread
  · obtain ⟨_, _, _, _, _, hfetched, _⟩ := fetch_frame (atFetch s) f hf
    exact congrArg (Memory.readWord · pa.toNat) hfetched
  · exact issued_mem_user hk hf hu htable hforbidden

end Sys2Proof.Machine
end
